-- ==== Sys2Proof/Word.lean ====
section
/-! DEFINITION. The word types of the block: bytes, 32-bit bus words, byte strings. -/

namespace Sys2Proof

/-- An octet (R11). -/
abbrev Byte := BitVec 8

/-- A register word, bit 0 least significant (R10). -/
abbrev Word := BitVec 32

/-- A byte string: a finite sequence of octets (R11). -/
abbrev Bytes := List Byte

end Sys2Proof
end

