-- ==== Sys2Proof/Syntax.lean ====
section
/-! DEFINITION. The commands: one constructor per row of spec/opcode_table.json. A command has no operand
field; its operands are block state (R100, R103). -/

namespace Sys2Proof

/-- The SDB command set, version 1.0 (R102). -/
inductive Instr where
  /-- OPCODE 0x01 (R150). -/
  | deconceal
  /-- OPCODE 0x02 (R230). -/
  | p256Decompress
  /-- OPCODE 0x03 (R235). -/
  | p256Compress
  /-- OPCODE 0x04 (R240). -/
  | tbcdDecode
  /-- OPCODE 0x05 (R245). -/
  | zeroize
  /-- Every other word (R101, R250): the written fields OPCODE [7:0] and RSVD [31:8]. -/
  | illegal (opcode : BitVec 8) (rsvd : BitVec 24)
deriving DecidableEq, Repr

end Sys2Proof
end

