-- ==== Sys2Proof/WellFormed.lean ====
section
/-! DEFINITION. Which terms of `Instr` stand for a command word: an `illegal` term must not hold the fields
of one of the five commands. -/

namespace Sys2Proof

/-- The opcodes of R102's map. -/
def legalOpcode (opcode : BitVec 8) : Bool :=
  opcode == 0x01 || opcode == 0x02 || opcode == 0x03 || opcode == 0x04 || opcode == 0x05

/-- R101: a word is ILLEGAL exactly when RSVD is not 0 or OPCODE is outside R102's map. -/
def Instr.wellFormed : Instr → Bool
  | .deconceal => true
  | .p256Decompress => true
  | .p256Compress => true
  | .tbcdDecode => true
  | .zeroize => true
  | .illegal opcode rsvd => rsvd != 0 || !legalOpcode opcode

/-- `Instr.wellFormed` as a proposition. -/
abbrev Instr.WellFormed (i : Instr) : Prop := i.wellFormed = true

end Sys2Proof
end

