-- ==== Sys2Proof/Decode.lean ====
section
/-! DEFINITION. Decoding and encoding of command words (R100 to R102), and the byte lanes of a word (R72). -/

namespace Sys2Proof

/-- Why a byte list holds no command. -/
inductive DecodeError where
  /-- Fewer than the four bytes of a command word. Safe: no command is made up from a partial word (R74). -/
  | truncated
deriving DecidableEq, Repr

/-- Byte lane `k` of a word: bits [8k+7 : 8k] (R72). -/
def byteLane (v : Word) (k : Nat) : Byte := v.extractLsb' (8 * k) 8

/-- The word whose byte lane k is `b k`, for k = 0..3 (R72). -/
def wordOfLanes (b : Nat → Byte) : Word := b 3 ++ b 2 ++ b 1 ++ b 0

/-- The four bytes of a word, lane 0 first (R72). -/
def lanesOf (v : Word) : Bytes := [byteLane v 0, byteLane v 1, byteLane v 2, byteLane v 3]

/-- OPCODE, bits [7:0] of a command word (R100). -/
def opcodeField (v : Word) : BitVec 8 := v.extractLsb' 0 8

/-- RSVD, bits [31:8] of a command word (R100). -/
def rsvdField (v : Word) : BitVec 24 := v.extractLsb' 8 24

/-- R101: the command a CMD word stands for. Every word has one. -/
def decodeWord (v : Word) : Instr :=
  if rsvdField v ≠ 0 then .illegal (opcodeField v) (rsvdField v)
  else if opcodeField v = 0x01 then .deconceal
  else if opcodeField v = 0x02 then .p256Decompress
  else if opcodeField v = 0x03 then .p256Compress
  else if opcodeField v = 0x04 then .tbcdDecode
  else if opcodeField v = 0x05 then .zeroize
  else .illegal (opcodeField v) (rsvdField v)

/-- The command at the head of a byte list, in lane order, and the bytes after it. -/
def decode : Bytes → Except DecodeError (Instr × Bytes)
  | b0 :: b1 :: b2 :: b3 :: rest => .ok (decodeWord (b3 ++ b2 ++ b1 ++ b0), rest)
  | _ => .error .truncated

/-- The command word of a command: the match column of R102, and an ILLEGAL word's own fields (R100). -/
def encodeWord : Instr → Word
  | .deconceal => 0x00000001
  | .p256Decompress => 0x00000002
  | .p256Compress => 0x00000003
  | .tbcdDecode => 0x00000004
  | .zeroize => 0x00000005
  | .illegal opcode rsvd => rsvd ++ opcode

/-- The words of a command: exactly one (R100). -/
def encode (i : Instr) : List Word := [encodeWord i]

/-- A command's word as the bytes `decode` reads. -/
def encodeBytes (i : Instr) : Bytes := lanesOf (encodeWord i)

/-- The word whose low `nbits` bits are those of `w`, every other bit 0. -/
def tableWord (nbits w : Nat) : Word := BitVec.ofNat 32 (w % 2 ^ nbits)

/-- The command the decoder reads from the opcode table's bits. -/
def decodeTableWord (nbits w : Nat) : Option Instr :=
  match decode (lanesOf (tableWord nbits w)) with
  | .ok (i, _) => some i
  | .error _ => none

end Sys2Proof
end

