-- ==== Sys2Proof/Machine/Bytes.lean ====
section
/-! DEFINITION. Byte-string notation of R11 and R12, hexadecimal and TBCD text (R112, R152, R210), and the
field split (R130). -/

namespace Sys2Proof.Machine

/-- The byte string of an ASCII string (R11). -/
def ascii (t : String) : Bytes := t.toList.map (fun c => BitVec.ofNat 8 c.toNat)

/-- `B[i:j]` (R11). -/
def slice (b : Bytes) (i j : Nat) : Bytes := (b.drop i).take (j - i)

/-- `OS2IP(B)`: big-endian (R12). -/
def os2ip (b : Bytes) : Nat := b.foldl (fun acc x => 256 * acc + x.toNat) 0

/-- `I2OSP(x, k)`: k bytes, big-endian (R12). -/
def i2osp (x : Nat) : Nat → Bytes
  | 0 => []
  | k + 1 => i2osp (x / 256) k ++ [BitVec.ofNat 8 x]

/-- `be32(c)` (R12). -/
def be32 (c : Nat) : Bytes := i2osp c 4

/-- The character of a nibble, lowercase (R112). -/
def hexChar (n : Byte) : Byte := if n < 10 then 0x30 + n else 0x57 + n

/-- `hex_lower(B)`: two characters a byte, high nibble first (R12, R112). -/
def hexLower (b : Bytes) : Bytes := b.flatMap (fun (x : Byte) => [hexChar (x >>> 4), hexChar (x &&& 0x0F)])

/-- `val` of R152: the value of a hex character of either case. -/
def hexVal (t : Byte) : Option Byte :=
  if 0x30 ≤ t ∧ t ≤ 0x39 then some (t - 0x30)
  else if 0x61 ≤ t ∧ t ≤ 0x66 then some (t - 0x57)
  else if 0x41 ≤ t ∧ t ≤ 0x46 then some (t - 0x37)
  else none

/-- `hex_decode(T)` (R152): none for an odd length or a byte that is no hex character. -/
def hexDecode : Bytes → Option Bytes
  | [] => some []
  | [_] => none
  | t :: u :: rest =>
    match hexVal t, hexVal u, hexDecode rest with
    | some hi, some lo, some bs => some ((16 * hi + lo) :: bs)
    | _, _, _ => none

/-- A byte with its nibbles exchanged (R12). -/
def swapByte (b : Byte) : Byte := ((b &&& 0x0F) <<< 4) ||| (b >>> 4)

/-- `swap_nibbles(B)` (R12). -/
def swapNibbles (b : Bytes) : Bytes := b.map swapByte

/-- R210: one final filler character `f` is stripped. -/
def stripFiller (h : Bytes) : Bytes := if h.getLast? = some 0x66 then h.dropLast else h

/-- R210: the TBCD digit string of a byte string. -/
def tbcdDigits (b : Bytes) : Bytes := stripFiller (hexLower (swapNibbles b))

/-- The loop of R130: `cur` is the field being read. -/
def splitFrom (cur : Bytes) : Bytes → List Bytes
  | [] => [cur]
  | b :: rest => if b = 0x2D then cur :: splitFrom [] rest else splitFrom (cur ++ [b]) rest

/-- R130: the fields of a byte string, split at every 0x2D. -/
def splitFields (b : Bytes) : List Bytes := splitFrom [] b

end Sys2Proof.Machine
end

