-- ==== Sys2Proof/Config.lean ====
section
/-! DEFINITION. What an implementation fixes: the parameters of R9, the profile constants of R8, the fixed
offsets of the buffers (R32), and the free values, which nothing can evaluate. -/

namespace Sys2Proof

/-- The parameters of R9 that a register or buffer rule depends on, and one of the model's own. A machine carries
its own and no step changes them. -/
structure Params where
  /-- BASE_ADDR: byte address of the block's window on the host bus. -/
  baseAddr : Nat
  /-- IN_BUF_SIZE in bytes. -/
  inBufSize : Nat
  /-- OUT_BUF_SIZE in bytes. -/
  outBufSize : Nat
  /-- The model's own: whether a passthrough goes on from PARSE to DISPATCH and branches off to COMMIT there, as the
  diagram of R151 draws it, or goes from PARSE straight to COMMIT, as R131 and R132 say. The spec's files differ and
  no ruling settles it, so both walks are modelled (log 28, safe). -/
  passthroughViaDispatch : Bool
deriving DecidableEq, Repr

/-- The spec's default sizes (R9, D5). BASE_ADDR is OPEN there: 0 is a DESIGN CHOICE (log 5, unsafe for a statement
that rests on it: only that the parameters are legal at reset does). The walk of a passthrough is that of R131 and
R132, a DESIGN CHOICE no statement rests on (log 28, safe). -/
def Params.standard : Params :=
  { baseAddr := 0, inBufSize := 1024, outBufSize := 1024, passthroughViaDispatch := false }

/-- R9: the window is 4096-aligned, the sizes are multiples of 4 and at most 1024. IN_BUF_SIZE ≤ OUT_BUF_SIZE
is DEDUCED from R132 and R217 (log 6, safe). -/
abbrev Params.wf (p : Params) : Prop :=
  p.baseAddr % 4096 = 0 ∧ p.inBufSize % 4 = 0 ∧ p.inBufSize ≤ 1024 ∧
    p.outBufSize % 4 = 0 ∧ p.outBufSize ≤ 1024 ∧ p.inBufSize ≤ p.outBufSize

namespace Config

/-- Size of the window in bytes (R32). -/
def windowSize : Nat := 4096

/-- Window offset of IN_BUF[0] (R45). -/
def inBufBase : Nat := 0x400

/-- Window offset of OUT_BUF[0] (R46). -/
def outBufBase : Nat := 0x800

/-- macLen (R8). -/
def macLen : Nat := 8

/-- encKeyLen (R8). -/
def encKeyLen : Nat := 16

/-- icbLen (R8). -/
def icbLen : Nat := 16

/-- hashLen (R8). -/
def hashLen : Nat := 32

/-- macKeyLen (R8, D27). -/
def macKeyLen : Nat := 32

/-- R190: rounds = ceil((encKeyLen + macKeyLen) / hashLen). -/
def kdfRounds : Nat := (encKeyLen + macKeyLen + hashLen - 1) / hashLen

/-- FREE VALUE: the byte at a window offset that nothing has written since the given draw (R45, R46, U1, U2).
DESIGN CHOICE of form, safe (log 7). -/
opaque unspecifiedByte : Nat → Nat → Byte

/-- FREE VALUE: X25519_FAILS (R9, R15, U3) on a scalar and a u-coordinate. Safe (log 13). -/
opaque x25519Fails : Bytes → Bytes → Bool

/-- FREE VALUE: the X25519 engine's value on a u-coordinate that is not canonical (U15). Safe (log 12). -/
opaque x25519NonCanonical : Bytes → Bytes → Vector Byte 32

/-- FREE VALUE: P256_FAILS (R9, R16, U4) on a scalar and a point, beyond the inputs R16 puts into it. Safe
(log 15). -/
opaque p256Fails : Bytes → Nat → Nat → Bool

/-- FREE VALUE: the P-256 engine's value for a scalar outside 1 to n − 1 on which it does not fail (R16, U4).
Safe (log 14). -/
opaque p256OutOfRange : Bytes → Nat → Nat → Vector Byte 32

end Config

end Sys2Proof
end

