-- ==== Sys2Proof/Machine/State.lean ====
section
/-! DEFINITION. The state of the block as plain data, the reasons a step can stop, and the state after reset. -/

namespace Sys2Proof.Machine

/-- Buffer contents by window offset: the bytes that have been written, addresses strictly rising. An offset
that is not listed holds no stored value; it reads as `Config.unspecifiedByte` (log 7). -/
abbrev Memory := List Host.Cell

/-- The one canonical form of a memory. -/
abbrev Memory.wf (m : Memory) : Prop := m.Pairwise (fun c d => c.1 < d.1)

/-- The sequencer's stages (R50). -/
inductive Stage where
  | idle
  | check
  | parse
  | dispatch
  | hexdec
  | keylen
  | split
  | keyagree
  | kdf
  | mac
  | decrypt
  | decode
  | assemble
  | commit
  | aux
deriving DecidableEq, Repr

/-- The result codes that are ever produced (R261, U11). -/
inductive ResultCode where
  | ok
  | invalidFormat
  | unknownPrefix
  | unsupportedScheme
  | hexDecodeFailed
  | invalidPublicKeyEncoding
  | inputTooShort
  | keyAgreementFailed
  | macVerificationFailed
  | keyNotLoaded
  | lengthError
  | illegalCommand
deriving DecidableEq, Repr

/-- The paths STATUS.KIND names (R114). -/
inductive Kind where
  | none
  | passthrough
  | null
  | profileA
  | profileB
  | aux
deriving DecidableEq, Repr

/-- The two ECIES profiles (R8). -/
inductive Profile where
  | a
  | b
deriving DecidableEq, Repr

/-- The two forms of a Profile B public key (R109). -/
inductive KeyForm where
  | compressed
  | uncompressed
deriving DecidableEq, Repr

/-- A request to one of the external engines (R14 to R19). -/
inductive Request where
  | x25519 (k u : Bytes)
  | p256SmulX (d : Bytes) (x y : Nat)
  | sha256 (m : Bytes)
  | hmacSha256 (k m : Bytes)
  | aes128Ctr (k icb c : Bytes)
deriving DecidableEq, Repr

/-- An engine's response (R14 to R19). -/
inductive Answer where
  | ok (z : Bytes)
  | fail
deriving DecidableEq, Repr

/-- The one primitive request a sequencer may have: none, one waiting for its engine, or one that the engine
has answered and the sequencer has not yet used (R14, R51). -/
inductive Port where
  | idle
  | requested (r : Request)
  | answered (a : Answer)
deriving DecidableEq, Repr

/-- The outcome a command has so far (R220): its code, its result string, KIND and RAW. -/
structure Pending where
  code : ResultCode
  out : Bytes
  kind : Kind
  raw : Bool
deriving DecidableEq, Repr

/-- The sequencer's scratch values (R51), with the fields PARSE and DISPATCH bind (R130, R135, R136) and the
constants KEYLEN picks (R153). -/
structure Scratch where
  fields : List Bytes
  supiType : Bytes
  mcc : Bytes
  mnc : Bytes
  protectionScheme : Bytes
  schemeOutput : Bytes
  profile : Option Profile
  /-- `S` of R152. -/
  decoded : Bytes
  pubKeyLen : Nat
  form : Option KeyForm
  ephemeralKey : Bytes
  mac : Bytes
  ciphertext : Bytes
  point : Option (Nat × Nat)
  kdfPublicKey : Bytes
  sharedSecret : Bytes
  /-- Rounds of R191 done. -/
  kdfRound : Nat
  /-- `K` of R191. -/
  derived : Bytes
  encKey : Bytes
  icb : Bytes
  macKey : Bytes
  expectedMac : Bytes
  plaintext : Bytes
  digits : Bytes
  pending : Pending
deriving DecidableEq, Repr

/-- Every scratch value zero or empty (R221). -/
def Scratch.empty : Scratch :=
  { fields := [], supiType := [], mcc := [], mnc := [], protectionScheme := [], schemeOutput := [],
    profile := none, decoded := [], pubKeyLen := 0, form := none, ephemeralKey := [], mac := [],
    ciphertext := [], point := none, kdfPublicKey := [], sharedSecret := [], kdfRound := 0, derived := [],
    encKey := [], icb := [], macKey := [], expectedMac := [], plaintext := [], digits := [],
    pending := { code := .ok, out := [], kind := .none, raw := false } }

/-- CTRL's two fields; its other bits are RAZ/WI (R35). -/
structure Ctrl where
  irqEn : Bool
  legacyNullFallback : Bool
deriving DecidableEq, Repr

/-- STATUS's fields but for BUSY, which the stage gives (R37, R50). -/
structure Status where
  done : Bool
  overrun : Bool
  result : ResultCode
  kind : Kind
  raw : Bool
deriving DecidableEq, Repr

/-- One key slot: its 32 bytes and its KEYCTL valid bit (R41 to R43). -/
structure KeySlot where
  key : Vector Byte 32
  valid : Bool
deriving DecidableEq, Repr

/-- A key slot with 32 zero bytes and the valid bit 0 (R41, R53). -/
def KeySlot.cleared : KeySlot := { key := Vector.replicate 32 0, valid := false }

/-- What an offset of the window names (R32). -/
inductive Target where
  | id
  | version
  | ctrl
  | cmd
  | status
  | inLen
  | outLen
  | keyctl
  | keyA (w : Nat)
  | keyB (w : Nat)
  /-- The word that starts at IN_BUF[i]. -/
  | inBuf (i : Nat)
  /-- The word that starts at OUT_BUF[i]. -/
  | outBuf (i : Nat)
  | reserved
deriving DecidableEq, Repr

/-- The two bus responses (R70). -/
inductive BusStatus where
  | okay
  | error
deriving DecidableEq, Repr

/-- The response to an access: a read's carries 32 bits of data (R70). -/
inductive Response where
  | read (status : BusStatus) (data : Word)
  | write (status : BusStatus)
deriving DecidableEq, Repr

/-- What can happen to the block (R264, R291). -/
inductive Event where
  /-- The host reads `width` bytes at a bus address. -/
  | read (addr width : Nat)
  /-- The host writes `width` bytes at a bus address. -/
  | write (addr width : Nat) (data : Word)
  /-- The host script's `run` (R116): the host writes CMD, and nothing else happens until the command it
  started has completed (log 3). -/
  | run (word : Word)
  /-- The sequencer makes one move. -/
  | sequencerMove
  /-- The engine with the outstanding request answers. -/
  | engineMove
  /-- An engine answers the oldest request of an aborted command (R291). -/
  | lateAnswer
  /-- The reset input is asserted (R290). -/
  | reset
deriving DecidableEq, Repr

/-- Everything the spec gives the machine, and the model's own `draw`, `agenda`, `orphans` and `response`
(INVENTORY.md lists each). -/
structure State where
  /-- The parameters of R9. -/
  params : Params
  ctrl : Ctrl
  status : Status
  inLen : BitVec 16
  outLen : BitVec 16
  slotA : KeySlot
  slotB : KeySlot
  /-- IN_BUF and the OUT_BUF storage (R45, R46). -/
  mem : Memory
  stage : Stage
  /-- The command accepted and not yet completed (R150's `cmd`). R51 and R53 do not list it: that it is none outside
  a command is the model's choice, unobservable (log 29). -/
  cmd : Option Instr
  scratch : Scratch
  port : Port
  /-- The model's own: how many resets the machine has had; unwritten bytes are drawn anew at each (log 7). -/
  draw : Nat
  /-- Unanswered requests of aborted commands, oldest first (R291, log 20). -/
  orphans : List Request
  /-- The model's own: the events still to come from outside, in their order (log 1). -/
  agenda : List Event
  /-- The last response on the bus (R70, log 19). -/
  response : Option Response
deriving DecidableEq, Repr

/-- Why a step stops. The block itself has no traps (R260, R271): both are the model's. -/
inductive Fault where
  /-- A bus read or write at an address outside the block's window, which is the whole of its address space
  (R71). Raised by `busRead` and `busWrite`. Safe: such an access does not reach the block (log 17). -/
  | outsideWindow
  /-- The sequencer is in a combination of stage, command, scratch and port that no run from reset reaches and
  for which the spec gives no move. Raised by the stages of the sequencer. Safe (log 18). -/
  | sequencerInconsistent
deriving DecidableEq, Repr

/-- Why a step has no meaning. -/
inductive Refusal where
  /-- Raised by `exec` for an instruction with no meaning yet; no arm does. Safe. -/
  | notModelled (mnemonic : String)
deriving DecidableEq, Repr

/-- What a step or a meaning answers. -/
abbrev Result := Host.Outcome State Fault Refusal

/-- The machine right after reset (R53, R290). `params` are R9's defaults (log 5); nothing is listed in memory
(UNSPECIFIED, log 7, log 8); `cmd` is none by the model's choice (log 29); `draw`, `orphans`, `agenda` and `response`
are the model's own. -/
def State.reset : State :=
  { params := Params.standard
    ctrl := { irqEn := false, legacyNullFallback := false }
    status := { done := false, overrun := false, result := .ok, kind := .none, raw := false }
    inLen := 0
    outLen := 0
    slotA := KeySlot.cleared
    slotB := KeySlot.cleared
    mem := []
    stage := .idle
    cmd := none
    scratch := Scratch.empty
    port := .idle
    draw := 0
    orphans := []
    agenda := []
    response := none }

end Sys2Proof.Machine
end

