-- ==== Sys2Proof/Machine/Memory.lean ====
section
/-! DEFINITION. Reading and writing the buffer memory: a list of cells in one canonical form. -/

namespace Sys2Proof.Machine

/-- The stored value of an offset, none where nothing has been written. -/
def Memory.read? (m : Memory) (a : Nat) : Option Byte := m.lookup a

/-- The cells of a byte string laid out from an offset. -/
def cellsFrom (a : Nat) : Bytes → Memory
  | [] => []
  | b :: rest => (a, b) :: cellsFrom (a + 1) rest

/-- `m` with the bytes stored from offset `base` on: the cells below, the new cells, the cells above. -/
def Memory.write (m : Memory) (base : Nat) (bytes : Bytes) : Memory :=
  m.filter (fun c => decide (c.1 < base)) ++ cellsFrom base bytes ++
    m.filter (fun c => decide (base + bytes.length ≤ c.1))

end Sys2Proof.Machine
end

