-- ==== Sys2Proof/Machine/Operands.lean ====
section
/-! DEFINITION. The implicit operands of the commands (R103) and the address decoding of the bus (R32, R70). -/

namespace Sys2Proof.Machine

/-- Whether the sequencer is running a command: STATUS.BUSY (R37, R50). -/
def State.busy (s : State) : Bool := s.stage != .idle

/-- The byte at a buffer offset: the stored one, or the draw where nothing has been written (R45, U1). -/
def State.byteAt (s : State) (a : Nat) : Byte :=
  (s.mem.read? a).getD (Config.unspecifiedByte s.draw a)

/-- IN_BUF[i] (R45). -/
def State.inByte (s : State) (i : Nat) : Byte := s.byteAt (Config.inBufBase + i)

/-- The byte string `IN = IN_BUF[0:IN_LEN]` (R13). -/
def State.input (s : State) : Bytes := (List.range s.inLen.toNat).map s.inByte

/-- A byte of OUT_BUF as the host sees it: 0 beyond OUT_LEN (R46). -/
def State.outByte (s : State) (i : Nat) : Byte :=
  if i < s.outLen.toNat then s.byteAt (Config.outBufBase + i) else 0

/-- The whole result string `OUT_BUF[0:OUT_LEN]` (R111). -/
def State.output (s : State) : Bytes := (List.range s.outLen.toNat).map s.outByte

/-- The key slot of a profile (R170). -/
def State.slot (s : State) : Profile → KeySlot
  | .a => s.slotA
  | .b => s.slotB

/-- The offset of a bus address inside the block's window, none outside it (R32, R70). -/
def windowOffset (p : Params) (addr : Nat) : Option Nat :=
  if p.baseAddr ≤ addr ∧ addr < p.baseAddr + Config.windowSize then some (addr - p.baseAddr) else none

/-- What a word-aligned offset of the window names (R32). Parts of the buffer areas beyond the buffer sizes are
reserved (R47). -/
def targetAt (p : Params) (off : Nat) : Target :=
  if off = 0x000 then .id
  else if off = 0x004 then .version
  else if off = 0x008 then .ctrl
  else if off = 0x00C then .cmd
  else if off = 0x010 then .status
  else if off = 0x014 then .inLen
  else if off = 0x018 then .outLen
  else if off = 0x01C then .keyctl
  else if 0x040 ≤ off ∧ off < 0x060 then .keyA ((off - 0x040) / 4)
  else if 0x060 ≤ off ∧ off < 0x080 then .keyB ((off - 0x060) / 4)
  else if Config.inBufBase ≤ off ∧ off < Config.inBufBase + p.inBufSize then .inBuf (off - Config.inBufBase)
  else if Config.outBufBase ≤ off ∧ off < Config.outBufBase + p.outBufSize then .outBuf (off - Config.outBufBase)
  else .reserved

/-- R74: the accesses that are legal. -/
def legalAccess (off width : Nat) : Bool := width == 4 && off % 4 == 0

/-- Whether CHECK tests IN_LEN for a command (R150). -/
def checksLength : Instr → Bool
  | .deconceal => true
  | .p256Decompress => true
  | .p256Compress => true
  | .tbcdDecode => true
  | .zeroize => false
  | .illegal _ _ => false

/-- `pending.kind` at a command's start (R220). -/
def initialKind : Instr → Kind
  | .deconceal => .none
  | .p256Decompress => .aux
  | .p256Compress => .aux
  | .tbcdDecode => .aux
  | .zeroize => .aux
  | .illegal _ _ => .none

end Sys2Proof.Machine
end

