-- ==== Sys2Proof/Machine/Flags.lean ====
section
/-! DEFINITION. The register words made of fields (R33 to R41), their encodings (R114, R261), what writing them
does to the fields, and the interrupt output (R48). -/

namespace Sys2Proof.Machine

/-- STATUS.RESULT's number (R261). -/
def resultCode : ResultCode → BitVec 8
  | .ok => 0x00
  | .invalidFormat => 0x01
  | .unknownPrefix => 0x02
  | .unsupportedScheme => 0x03
  | .hexDecodeFailed => 0x04
  | .invalidPublicKeyEncoding => 0x05
  | .inputTooShort => 0x06
  | .keyAgreementFailed => 0x07
  | .macVerificationFailed => 0x08
  | .keyNotLoaded => 0x10
  | .lengthError => 0x11
  | .illegalCommand => 0x12

/-- STATUS.KIND's number (R114). -/
def kindCode : Kind → BitVec 3
  | .none => 0
  | .passthrough => 1
  | .null => 2
  | .profileA => 3
  | .profileB => 4
  | .aux => 5

/-- R33. -/
def idWord : Word := 0x53554349

/-- R34. -/
def versionWord : Word := 0x00000100

/-- The CTRL word (R35). -/
def ctrlWord (c : Ctrl) : Word := (0 : BitVec 30) ++ BitVec.ofBool c.legacyNullFallback ++ BitVec.ofBool c.irqEn

/-- The STATUS word (R37). -/
def State.statusWord (s : State) : Word :=
  (0 : BitVec 12) ++ BitVec.ofBool s.status.raw ++ kindCode s.status.kind ++ resultCode s.status.result ++
    (0 : BitVec 5) ++ BitVec.ofBool s.status.overrun ++ BitVec.ofBool s.status.done ++ BitVec.ofBool s.busy

/-- The KEYCTL word: its write-only bits read 0 (R41). -/
def State.keyctlWord (s : State) : Word :=
  (0 : BitVec 30) ++ BitVec.ofBool s.slotB.valid ++ BitVec.ofBool s.slotA.valid

/-- The completion interrupt, a level (R48, R270). -/
def State.irq (s : State) : Bool := s.ctrl.irqEn && s.status.done

/-- A write of CTRL: its two fields (R35). -/
def ctrlOf (v : Word) : Ctrl := { irqEn := v.getLsbD 0, legacyNullFallback := v.getLsbD 1 }

/-- A write of STATUS: DONE and OVERRUN are RW1C (R38). -/
def Status.clearedBy (t : Status) (v : Word) : Status :=
  { t with done := t.done && !v.getLsbD 1, overrun := t.overrun && !v.getLsbD 2 }

/-- A write of KEYCTL on one slot, by its COMMIT and CLEAR bits; CLEAR wins (R41). -/
def KeySlot.controlledBy (k : KeySlot) (commit clear : Bool) : KeySlot :=
  if clear then KeySlot.cleared else if commit then { k with valid := true } else k

/-- A write of a key word: four bytes, and the valid bit falls (R42, R43). -/
def KeySlot.withWord (k : KeySlot) (w : Nat) (v : Word) : KeySlot :=
  { key :=
      (((k.key.setIfInBounds (4 * w) (byteLane v 0)).setIfInBounds (4 * w + 1) (byteLane v 1)).setIfInBounds
        (4 * w + 2) (byteLane v 2)).setIfInBounds (4 * w + 3) (byteLane v 3)
    valid := false }

end Sys2Proof.Machine
end

