-- ==== Sys2Proof/Machine/Ops.lean ====
section
/-! DEFINITION. The named updates of the state: accept (R150), raising a failure, which is the block's taking of
an exception (R260, R271), completion, which is its return (R220, R272), the engine port (R14), and the
register and buffer writes (R35 to R45). -/

namespace Sys2Proof.Machine

/-- `stage <- st` (R13). -/
def State.gotoStage (s : State) (st : Stage) : State := { s with stage := st }

/-- The scratch values replaced (R51). -/
def State.setScratch (s : State) (c : Scratch) : State := { s with scratch := c }

/-- The agenda replaced. -/
def State.setAgenda (s : State) (l : List Event) : State := { s with agenda := l }

/-- An access is answered on the bus (R70). -/
def State.respond (s : State) (r : Response) : State := { s with response := some r }

/-- STATUS.OVERRUN set by a write that is ignored (R300). -/
def State.setOverrun (s : State) : State := { s with status := { s.status with overrun := true } }

/-- `call ENGINE(args)`: the request goes out on the port (R13, R14). -/
def State.issue (s : State) (r : Request) : State := { s with port := .requested r }

/-- The engine's response arrives on the port (R14). -/
def State.deliver (s : State) (a : Answer) : State := { s with port := .answered a }

/-- The response has been used and the port is free (R14). -/
def State.release (s : State) : State := { s with port := .idle }

/-- `raise Fail(code)` (R260, R271): the code is recorded, no later stage runs, no request goes out, and the
sequencer goes straight to COMMIT. KIND stays as the path so far set it (R262). -/
def State.raiseFail (s : State) (code : ResultCode) : State :=
  { s with
    stage := .commit
    port := .idle
    scratch := { s.scratch with pending := { s.scratch.pending with code := code } } }

/-- `emit(B)` and `stage <- COMMIT` (R13): the result string is set and the command has succeeded. -/
def State.emit (s : State) (out : Bytes) : State :=
  { s with
    stage := .commit
    scratch := { s.scratch with pending := { s.scratch.pending with out := out } } }

/-- `emit(B)` after the output size check of R217. -/
def State.emitChecked (s : State) (out : Bytes) : State :=
  if s.params.outBufSize < out.length then s.raiseFail .lengthError else s.emit out

/-- Accept of a command (R150): BUSY rises with the stage, DONE, RESULT, KIND, RAW and OUT_LEN are cleared,
OVERRUN stays, and the scratch starts empty with the command's initial KIND (R220, log 24). -/
def State.accept (s : State) (i : Instr) : State :=
  { s with
    status := { s.status with done := false, result := .ok, kind := .none, raw := false }
    outLen := 0
    stage := .check
    cmd := some i
    port := .idle
    scratch := { Scratch.empty with pending := { Scratch.empty.pending with kind := initialKind i } } }

/-- What ZEROIZE clears within its completion (R245): both slots, IN_BUF, IN_LEN and the OUT_BUF storage. -/
def State.clearStorage (s : State) : State :=
  { s with
    slotA := KeySlot.cleared
    slotB := KeySlot.cleared
    inLen := 0
    mem :=
      (s.mem.write Config.inBufBase (List.replicate s.params.inBufSize 0)).write Config.outBufBase
        (List.replicate s.params.outBufSize 0) }

/-- The completion transition (R220) with a code, result string, KIND and RAW: the result becomes visible only
with OK; scratch is cleared (R221); BUSY falls with the stage and DONE is set. `cmd` becomes none, which R220 and
R221 do not say: the model's choice, unobservable (log 29). -/
def State.complete (s : State) (q : Pending) : State :=
  { s with
    mem := if q.code = .ok then s.mem.write Config.outBufBase q.out else s.mem
    outLen := if q.code = .ok then BitVec.ofNat 16 q.out.length else 0
    status :=
      { s.status with
        done := true
        result := q.code
        kind := q.kind
        raw := if q.code = .ok then q.raw else false }
    stage := .idle
    cmd := none
    port := .idle
    scratch := Scratch.empty }

/-- A write of CTRL (R35). -/
def State.writeCtrl (s : State) (v : Word) : State := { s with ctrl := ctrlOf v }

/-- A write of STATUS (R38). -/
def State.writeStatus (s : State) (v : Word) : State := { s with status := s.status.clearedBy v }

/-- A write of IN_LEN (R39). -/
def State.writeInLen (s : State) (v : Word) : State := { s with inLen := v.setWidth 16 }

/-- A write of KEYCTL (R41): COMMIT_A [8], COMMIT_B [9], CLEAR_A [16], CLEAR_B [17]. -/
def State.writeKeyctl (s : State) (v : Word) : State :=
  { s with
    slotA := s.slotA.controlledBy (v.getLsbD 8) (v.getLsbD 16)
    slotB := s.slotB.controlledBy (v.getLsbD 9) (v.getLsbD 17) }

/-- A write of KEY_A[w] (R42). -/
def State.writeKeyA (s : State) (w : Nat) (v : Word) : State := { s with slotA := s.slotA.withWord w v }

/-- A write of KEY_B[w] (R43). -/
def State.writeKeyB (s : State) (w : Nat) (v : Word) : State := { s with slotB := s.slotB.withWord w v }

/-- A write of the IN_BUF word at IN_BUF[i] (R45, R72). -/
def State.writeInBuf (s : State) (i : Nat) (v : Word) : State :=
  { s with mem := s.mem.write (Config.inBufBase + i) (lanesOf v) }

/-- Reset asserted (R290, R291): every piece of state at its reset value; a request still outstanding becomes an
orphan whose answer will be discarded. The parameters, the agenda and the count of draws are not the block's
registers and go on (log 25). -/
def State.assertReset (s : State) : State :=
  { State.reset with
    params := s.params
    draw := s.draw + 1
    agenda := s.agenda
    orphans :=
      match s.port with
      | .requested r => s.orphans ++ [r]
      | .idle => s.orphans
      | .answered _ => s.orphans }

/-- A late answer to an aborted command's request is discarded (R291). -/
def State.discardLate (s : State) : State := { s with orphans := s.orphans.tail }

/-- What a read of a target returns (R32 to R47). -/
def State.readRegister (s : State) : Target → Word
  | .id => idWord
  | .version => versionWord
  | .ctrl => ctrlWord s.ctrl
  | .cmd => 0
  | .status => s.statusWord
  | .inLen => s.inLen.setWidth 32
  | .outLen => s.outLen.setWidth 32
  | .keyctl => s.keyctlWord
  | .keyA _ => 0
  | .keyB _ => 0
  | .inBuf i => wordOfLanes (fun k => s.inByte (i + k))
  | .outBuf i => wordOfLanes (fun k => s.outByte (i + k))
  | .reserved => 0

/-- A write that R300 freezes while a command runs: it takes effect when idle, else it only sets OVERRUN. -/
def State.unlessBusy (s : State) (effect : State) : State := if s.busy then s.setOverrun else effect

/-- What a write to a target does (R35 to R47, R76, R150, R300). While BUSY a write to a read-only or reserved target
leaves OVERRUN alone, as R300 says; the last sentence of R76, read alone, would set it, but cites R300 for the rule.
DEDUCED (log 30). -/
def State.writeRegister (s : State) (t : Target) (v : Word) : State :=
  match t with
  | .id => s
  | .version => s
  | .ctrl => s.unlessBusy (s.writeCtrl v)
  | .cmd => s.unlessBusy (s.accept (decodeWord v))
  | .status => s.writeStatus v
  | .inLen => s.unlessBusy (s.writeInLen v)
  | .outLen => s
  | .keyctl => s.unlessBusy (s.writeKeyctl v)
  | .keyA w => s.unlessBusy (s.writeKeyA w v)
  | .keyB w => s.unlessBusy (s.writeKeyB w v)
  | .inBuf i => s.unlessBusy (s.writeInBuf i v)
  | .outBuf _ => s
  | .reserved => s

end Sys2Proof.Machine
end

