-- ==== Sys2Proof/Machine/Bus.lean ====
section
/-! DEFINITION. The host's accesses to the window (20_memory.md). -/

namespace Sys2Proof.Machine

/-- A read of `width` bytes at a bus address (R70, R74): its response carries the register's word, or ERROR and
data 0. Reads change no other state (R76). -/
def busRead (addr width : Nat) (s : State) : Result :=
  match windowOffset s.params addr with
  | none => .fault .outsideWindow
  | some off =>
    if legalAccess off width then .next (s.respond (.read .okay (s.readRegister (targetAt s.params off))))
    else .next (s.respond (.read .error 0))

/-- A write of `width` bytes at a bus address (R70, R74): an illegal one changes nothing. -/
def busWrite (addr width : Nat) (v : Word) (s : State) : Result :=
  match windowOffset s.params addr with
  | none => .fault .outsideWindow
  | some off =>
    if legalAccess off width then
      .next ((s.writeRegister (targetAt s.params off) v).respond (.write .okay))
    else .next (s.respond (.write .error))

end Sys2Proof.Machine
end

