-- ==== Sys2Proof/Machine/ModArith.lean ====
section
/-! DEFINITION. Exponentiation modulo a number, by squaring. Both curves use it. -/

namespace Sys2Proof.Machine

/-- `base ^ e mod m` for an exponent below 2 ^ fuel. -/
def powMod (m : Nat) : Nat → Nat → Nat → Nat
  | 0, _, _ => 1 % m
  | fuel + 1, base, e =>
    let h := powMod m fuel (base * base % m) (e / 2)
    if e % 2 = 1 then base * h % m else h

end Sys2Proof.Machine
end

