-- ==== Sys2Proof/Machine/P256.lean ====
section
/-! DEFINITION. The P-256 curve: point recovery and encoding inside the block (R171 to R178), and the value
function of the scalar-multiplication engine (R16, G11). The constants and the SEC 1 layouts are PRESUMED
(log 16); the engine's value is PRESUMED (log 14). -/

namespace Sys2Proof.Machine.P256

/-- The field prime (R171). -/
def p : Nat := 0xffffffff00000001000000000000000000000000ffffffffffffffffffffffff

/-- The curve's constant term (R171). -/
def b : Nat := 0x5ac635d8aa3a93e7b3ebbd55769886bc651d06b0cc53b0f63bce3c3e27d2604b

/-- The order of the group (R171). -/
def n : Nat := 0xffffffff00000000ffffffffffffffffbce6faada7179e84f3b9cac2fc632551

/-- `(x·x·x − 3·x + b) mod p` (R172), computed on integers. -/
def curveRhs (x : Nat) : Nat := (((x : Int) * x * x - 3 * x + b) % (p : Int)).toNat

/-- `OnCurve(x, y)` (R172). -/
def onCurve (x y : Nat) : Bool := decide (x < p) && decide (y < p) && y * y % p == curveRhs x

/-- `SqrtModP(r)` (R175). -/
@[irreducible] def sqrtModP (r : Nat) : Option Nat :=
  let t := powMod p 256 r ((p + 1) / 4)
  if t * t % p = r then some t else none

/-- R174: the point of a compressed key `P0 ‖ X`, none where R174 and R176 raise KeyAgreementFailed. -/
def recover (key : Bytes) : Option (Nat × Nat) :=
  let x := os2ip (slice key 1 33)
  if p ≤ x then none
  else
    match sqrtModP (curveRhs x) with
    | none => none
    | some y0 =>
      if y0 % 2 = (key.headD 0).toNat - 2 then some (x, y0)
      else if y0 = 0 then none
      else some (x, p - y0)

/-- R177: the point of an uncompressed key `0x04 ‖ X ‖ Y`, none off the curve. -/
def splitPoint (key : Bytes) : Option (Nat × Nat) :=
  let x := os2ip (slice key 1 33)
  let y := os2ip (slice key 33 65)
  if onCurve x y then some (x, y) else none

/-- `[0x02 + (y mod 2)] ‖ I2OSP(x, 32)` (R178). -/
def compressPoint (pt : Nat × Nat) : Bytes := BitVec.ofNat 8 (2 + pt.2 % 2) :: i2osp pt.1 32

/-- `0x04 ‖ I2OSP(x, 32) ‖ I2OSP(y, 32)` (R109). -/
def uncompressPoint (pt : Nat × Nat) : Bytes := 0x04 :: (i2osp pt.1 32 ++ i2osp pt.2 32)

/-! The engine's scalar multiplication, in Jacobian coordinates: (x, y, z) stands for (x/z², y/z³), and z = 0
for the point at infinity. -/

structure Jacobian where
  x : Nat
  y : Nat
  z : Nat
deriving DecidableEq, Repr

def mulF (a c : Nat) : Nat := a * c % p

def addF (a c : Nat) : Nat := (a + c) % p

def subF (a c : Nat) : Nat := (a + (p - c % p)) % p

/-- The double of a point, for a curve whose linear coefficient is −3. -/
def double (q : Jacobian) : Jacobian :=
  let delta := mulF q.z q.z
  let gamma := mulF q.y q.y
  let beta := mulF q.x gamma
  let alpha := mulF 3 (mulF (subF q.x delta) (addF q.x delta))
  let x3 := subF (mulF alpha alpha) (mulF 8 beta)
  ⟨x3, subF (mulF alpha (subF (mulF 4 beta) x3)) (mulF 8 (mulF gamma gamma)), mulF 2 (mulF q.y q.z)⟩

/-- The sum of a point and the affine point (x, y). -/
def addAffine (q : Jacobian) (x y : Nat) : Jacobian :=
  if q.z = 0 then ⟨x, y, 1⟩
  else
    let zz := mulF q.z q.z
    let h := subF (mulF x zz) q.x
    let r := subF (mulF y (mulF q.z zz)) q.y
    if h = 0 then
      if r = 0 then double q else ⟨1, 1, 0⟩
    else
      let hh := mulF h h
      let hhh := mulF h hh
      let v := mulF q.x hh
      let x3 := subF (subF (mulF r r) hhh) (mulF 2 v)
      ⟨x3, subF (mulF r (subF v x3)) (mulF q.y hhh), mulF q.z h⟩

/-- Double and add over the scalar's bits below the count, highest first. -/
def ladder (d x y : Nat) : Nat → Jacobian → Jacobian
  | 0, q => q
  | k + 1, q =>
    let q2 := double q
    ladder d x y k (if d.testBit k then addAffine q2 x y else q2)

/-- The x-coordinate of `d·(x, y)` for a scalar below 2^256, none at infinity. -/
@[irreducible] def scalarMulX (d x y : Nat) : Option Nat :=
  let q := ladder d x y 256 ⟨1, 1, 0⟩
  if q.z = 0 then none else some (mulF q.x (powMod p 256 (mulF q.z q.z) (p - 2)))

end Sys2Proof.Machine.P256
end

