-- ==== Sys2Proof/Machine/Auxiliary.lean ====
section
/-! DEFINITION. Stage AUX of the four auxiliary commands (46_aux_commands.md). -/

namespace Sys2Proof.Machine

/-- P256_DECOMPRESS (R230, R217). -/
def auxP256Decompress (s : State) : State :=
  match s.input with
  | [] => s.raiseFail .lengthError
  | b :: _ =>
    if b = 0x02 ∨ b = 0x03 then
      if s.input.length ≠ 33 then s.raiseFail .lengthError
      else
        match P256.recover s.input with
        | none => s.raiseFail .keyAgreementFailed
        | some pt => s.emitChecked (P256.uncompressPoint pt)
    else s.raiseFail .invalidPublicKeyEncoding

/-- P256_COMPRESS (R235, R217). -/
def auxP256Compress (s : State) : State :=
  match s.input with
  | [] => s.raiseFail .lengthError
  | b :: _ =>
    if b = 0x04 then
      if s.input.length ≠ 65 then s.raiseFail .lengthError
      else
        match P256.splitPoint s.input with
        | none => s.raiseFail .keyAgreementFailed
        | some pt => s.emitChecked (P256.compressPoint pt)
    else if b = 0x02 ∨ b = 0x03 then
      if s.input.length ≠ 33 then s.raiseFail .lengthError
      else
        match P256.recover s.input with
        | none => s.raiseFail .keyAgreementFailed
        | some pt => s.emitChecked (P256.compressPoint pt)
    else s.raiseFail .invalidPublicKeyEncoding

/-- TBCD_DECODE (R240, R217). -/
def auxTbcdDecode (s : State) : State := s.emitChecked (tbcdDigits s.input)

/-- ZEROIZE (R245): its clearing happens within the completion transition; here the empty result. -/
def auxZeroize (s : State) : State := s.emit []

/-- Stage AUX: only an auxiliary command reaches it (R150). -/
def stageAux (s : State) : Result :=
  match s.cmd with
  | some .p256Decompress => .next (auxP256Decompress s)
  | some .p256Compress => .next (auxP256Compress s)
  | some .tbcdDecode => .next (auxTbcdDecode s)
  | some .zeroize => .next (auxZeroize s)
  | some .deconceal => .fault .sequencerInconsistent
  | some (.illegal _ _) => .fault .sequencerInconsistent
  | none => .fault .sequencerInconsistent

end Sys2Proof.Machine
end

