-- ==== Sys2Proof/Machine/Sha256.lean ====
section
/-! DEFINITION. SHA-256 (FIPS 180-4) and HMAC over it (RFC 2104): the value functions of two engines (R17,
R18, G2, G3). PRESUMED, safe only as far as the standards are the engines' (log 9, log 10). -/

namespace Sys2Proof.Machine.Sha256

/-- The round constants. -/
def roundConstants : List Word :=
  [0x428a2f98, 0x71374491, 0xb5c0fbcf, 0xe9b5dba5, 0x3956c25b, 0x59f111f1, 0x923f82a4, 0xab1c5ed5] ++
  [0xd807aa98, 0x12835b01, 0x243185be, 0x550c7dc3, 0x72be5d74, 0x80deb1fe, 0x9bdc06a7, 0xc19bf174] ++
  [0xe49b69c1, 0xefbe4786, 0x0fc19dc6, 0x240ca1cc, 0x2de92c6f, 0x4a7484aa, 0x5cb0a9dc, 0x76f988da] ++
  [0x983e5152, 0xa831c66d, 0xb00327c8, 0xbf597fc7, 0xc6e00bf3, 0xd5a79147, 0x06ca6351, 0x14292967] ++
  [0x27b70a85, 0x2e1b2138, 0x4d2c6dfc, 0x53380d13, 0x650a7354, 0x766a0abb, 0x81c2c92e, 0x92722c85] ++
  [0xa2bfe8a1, 0xa81a664b, 0xc24b8b70, 0xc76c51a3, 0xd192e819, 0xd6990624, 0xf40e3585, 0x106aa070] ++
  [0x19a4c116, 0x1e376c08, 0x2748774c, 0x34b0bcb5, 0x391c0cb3, 0x4ed8aa4a, 0x5b9cca4f, 0x682e6ff3] ++
  [0x748f82ee, 0x78a5636f, 0x84c87814, 0x8cc70208, 0x90befffa, 0xa4506ceb, 0xbef9a3f7, 0xc67178f2]

/-- The eight words of the hash value. -/
structure Chain where
  a : Word
  b : Word
  c : Word
  d : Word
  e : Word
  f : Word
  g : Word
  h : Word
deriving DecidableEq, Repr

/-- The initial hash value. -/
def initial : Chain :=
  ⟨0x6a09e667, 0xbb67ae85, 0x3c6ef372, 0xa54ff53a,
    0x510e527f, 0x9b05688c, 0x1f83d9ab, 0x5be0cd19⟩

def choose (x y z : Word) : Word := (x &&& y) ^^^ (~~~x &&& z)

def majority (x y z : Word) : Word := (x &&& y) ^^^ (x &&& z) ^^^ (y &&& z)

def bigSigma0 (x : Word) : Word := x.rotateRight 2 ^^^ x.rotateRight 13 ^^^ x.rotateRight 22

def bigSigma1 (x : Word) : Word := x.rotateRight 6 ^^^ x.rotateRight 11 ^^^ x.rotateRight 25

def smallSigma0 (x : Word) : Word := x.rotateRight 7 ^^^ x.rotateRight 18 ^^^ (x >>> 3)

def smallSigma1 (x : Word) : Word := x.rotateRight 17 ^^^ x.rotateRight 19 ^^^ (x >>> 10)

/-- One round with its constant and schedule word. -/
def roundStep (s : Chain) (kw : Word × Word) : Chain :=
  let t1 := s.h + bigSigma1 s.e + choose s.e s.f s.g + kw.1 + kw.2
  let t2 := bigSigma0 s.a + majority s.a s.b s.c
  ⟨t1 + t2, s.a, s.b, s.c, s.d + t1, s.e, s.f, s.g⟩

/-- `n` words of the message schedule, from a window of its last sixteen words, oldest first. -/
def schedule : Nat → List Word → List Word
  | 0, _ => []
  | n + 1, w =>
    w.headD 0 ::
      schedule n
        (w.tail ++ [smallSigma1 (w.getD 14 0) + w.getD 9 0 + smallSigma0 (w.getD 1 0) + w.headD 0])

/-- The first `n` big-endian words of a byte string. -/
def bigEndianWords : Nat → Bytes → List Word
  | 0, _ => []
  | n + 1, b => (b.getD 0 0 ++ b.getD 1 0 ++ b.getD 2 0 ++ b.getD 3 0) :: bigEndianWords n (b.drop 4)

/-- The compression of one 64-byte block into the hash value. -/
def compress (s : Chain) (block : Bytes) : Chain :=
  let t := (roundConstants.zip (schedule 64 (bigEndianWords 16 block))).foldl roundStep s
  ⟨s.a + t.a, s.b + t.b, s.c + t.c, s.d + t.d, s.e + t.e, s.f + t.f, s.g + t.g, s.h + t.h⟩

/-- The message with its 0x80 byte, zeros and 64-bit bit length. -/
def pad (m : Bytes) : Bytes :=
  m ++ [0x80] ++ List.replicate ((119 - m.length % 64) % 64) 0 ++ i2osp (8 * m.length) 8

/-- The hash value after `n` 64-byte blocks. -/
def absorb : Nat → Chain → Bytes → Chain
  | 0, s, _ => s
  | n + 1, s, m => absorb n (compress s (m.take 64)) (m.drop 64)

/-- The digest: the eight words, big-endian. -/
def chainBytes (s : Chain) : Bytes :=
  i2osp s.a.toNat 4 ++ i2osp s.b.toNat 4 ++ i2osp s.c.toNat 4 ++ i2osp s.d.toNat 4 ++
    i2osp s.e.toNat 4 ++ i2osp s.f.toNat 4 ++ i2osp s.g.toNat 4 ++ i2osp s.h.toNat 4

/-- SHA-256 of a byte string (R17). -/
@[irreducible] def digest (m : Bytes) : Bytes := chainBytes (absorb ((pad m).length / 64) initial (pad m))

/-- RFC 2104's key block: a key longer than a block is hashed first, then zeros fill the block. -/
def keyBlock (k : Bytes) : Bytes :=
  let k' := if 64 < k.length then digest k else k
  k' ++ List.replicate (64 - k'.length) 0

/-- HMAC-SHA-256 of a message under a key (R18). -/
@[irreducible] def hmac (k m : Bytes) : Bytes :=
  digest ((keyBlock k).map (· ^^^ 0x5C) ++ digest ((keyBlock k).map (· ^^^ 0x36) ++ m))

end Sys2Proof.Machine.Sha256
end

