-- ==== Sys2Proof/Machine/X25519.lean ====
section
/-! DEFINITION. The X25519 function of RFC 7748: the value function of the X25519 engine (R15, G1). PRESUMED,
safe only as far as the standard is the engine's; a u-coordinate that is not canonical has a free value (log 12). -/

namespace Sys2Proof.Machine.X25519

/-- The field prime 2^255 − 19. -/
def prime : Nat := 2 ^ 255 - 19

def addF (a b : Nat) : Nat := (a + b) % prime

def subF (a b : Nat) : Nat := (a + (prime - b % prime)) % prime

def mulF (a b : Nat) : Nat := a * b % prime

/-- The ladder's two points in projective form. -/
structure Ladder where
  x2 : Nat
  z2 : Nat
  x3 : Nat
  z3 : Nat
deriving DecidableEq, Repr

/-- The two points exchanged. -/
def Ladder.swap (s : Ladder) : Ladder := ⟨s.x3, s.z3, s.x2, s.z2⟩

/-- The ladder's arithmetic on one bit, between its two conditional exchanges. -/
def ladderArith (u : Nat) (s : Ladder) : Ladder :=
  let a := addF s.x2 s.z2
  let aa := mulF a a
  let b := subF s.x2 s.z2
  let bb := mulF b b
  let e := subF aa bb
  let da := mulF (subF s.x3 s.z3) a
  let cb := mulF (addF s.x3 s.z3) b
  ⟨mulF aa bb, mulF e (addF aa (mulF 121665 e)), mulF (addF da cb) (addF da cb),
    mulF u (mulF (subF da cb) (subF da cb))⟩

/-- One bit of the scalar. -/
def ladderStep (u : Nat) (bit : Bool) (s : Ladder) : Ladder :=
  if bit then (ladderArith u s.swap).swap else ladderArith u s

/-- The scalar's bits below `n`, highest first. -/
def ladder (k u : Nat) : Nat → Ladder → Ladder
  | 0, s => s
  | n + 1, s => ladder k u n (ladderStep u (k.testBit n) s)

/-- RFC 7748's decoding of a scalar: little-endian, three low bits and the top bit cleared, bit 254 set. -/
def decodeScalar (k : Bytes) : Nat := (os2ip k.reverse &&& (2 ^ 255 - 8)) ||| 2 ^ 254

/-- The result u-coordinate for a decoded scalar and coordinate. -/
def scalarMult (k u : Nat) : Nat :=
  let s := ladder k u 255 ⟨1, 0, u, 1⟩
  mulF s.x2 (powMod prime 255 s.z2 (prime - 2))

/-- A coordinate is canonical when its top bit is 0 and it is below the prime (U15). -/
def canonical (u : Bytes) : Bool := decide (os2ip u.reverse < prime)

/-- The engine's value: RFC 7748's for a canonical coordinate, free otherwise (U15). -/
@[irreducible] def value (k u : Bytes) : Bytes :=
  if canonical u then (i2osp (scalarMult (decodeScalar k) (os2ip u.reverse)) 32).reverse
  else (Config.x25519NonCanonical k u).toList

end Sys2Proof.Machine.X25519
end

