-- ==== Sys2Proof/Machine/Engines.lean ====
section
/-! DEFINITION. What each external engine answers to a request (R14 to R19). -/

namespace Sys2Proof.Machine

/-- R15: fails exactly on X25519_FAILS. -/
def answerX25519 (k u : Bytes) : Answer :=
  if Config.x25519Fails k u then .fail else .ok (X25519.value k u)

/-- R16: fails on P256_FAILS, which holds every input whose product is the point at infinity; the value is the
product's x-coordinate for a scalar of 1 to n − 1, and free for another scalar (U4). -/
def answerP256SmulX (d : Bytes) (x y : Nat) : Answer :=
  match P256.scalarMulX (os2ip d) x y with
  | none => .fail
  | some z =>
    if Config.p256Fails d x y then .fail
    else if 1 ≤ os2ip d ∧ os2ip d ≤ P256.n - 1 then .ok (i2osp z 32)
    else .ok (Config.p256OutOfRange d x y).toList

/-- R17: never fails. -/
def answerSha256 (m : Bytes) : Answer := .ok (Sha256.digest m)

/-- R18: never fails. -/
def answerHmacSha256 (k m : Bytes) : Answer := .ok (Sha256.hmac k m)

/-- R19: never fails. -/
def answerAes128Ctr (k icb c : Bytes) : Answer := .ok (Aes128.ctr k icb c)

/-- The answer to a request: a function of the request alone (R14). -/
def engineAnswer : Request → Answer
  | .x25519 k u => answerX25519 k u
  | .p256SmulX d x y => answerP256SmulX d x y
  | .sha256 m => answerSha256 m
  | .hmacSha256 k m => answerHmacSha256 k m
  | .aes128Ctr k icb c => answerAes128Ctr k icb c

end Sys2Proof.Machine
end

