-- ==== Sys2Proof/Machine/HexSplit.lean ====
section
/-! DEFINITION. Stages HEXDEC, KEYLEN and SPLIT of DECONCEAL (41_deconceal.md, steps 1 to 4). -/

namespace Sys2Proof.Machine

/-- Stage HEXDEC (R152). -/
def stageHexdec (s : State) : State :=
  match hexDecode s.scratch.schemeOutput with
  | none => s.raiseFail .hexDecodeFailed
  | some d => (s.setScratch { s.scratch with decoded := d }).gotoStage .keylen

/-- R154: the length check, and on to SPLIT. -/
def checkTotalLength (s : State) (pubKeyLen : Nat) (form : Option KeyForm) : State :=
  if s.scratch.decoded.length < pubKeyLen + Config.macLen then s.raiseFail .inputTooShort
  else (s.setScratch { s.scratch with pubKeyLen := pubKeyLen, form := form }).gotoStage .split

/-- R153 for Profile B: the first byte tells the form and the length. -/
def keyLengthB (s : State) : State :=
  match s.scratch.decoded with
  | [] => s.raiseFail .inputTooShort
  | b :: _ =>
    if b = 0x02 ∨ b = 0x03 then checkTotalLength s 33 (some .compressed)
    else if b = 0x04 then checkTotalLength s 65 (some .uncompressed)
    else s.raiseFail .invalidPublicKeyEncoding

/-- Stage KEYLEN (R153, R154). -/
def stageKeylen (s : State) : Result :=
  match s.scratch.profile with
  | none => .fault .sequencerInconsistent
  | some .a => .next (checkTotalLength s 32 none)
  | some .b => .next (keyLengthB s)

/-- R155: ephemeral key, ciphertext and MAC of the decoded scheme output. -/
def splitDecoded (c : Scratch) : Scratch :=
  let n := c.decoded.length
  { c with
    ephemeralKey := slice c.decoded 0 c.pubKeyLen
    mac := slice c.decoded (n - Config.macLen) n
    ciphertext := slice c.decoded c.pubKeyLen (n - Config.macLen) }

/-- Stage SPLIT (R155). -/
def stageSplit (s : State) : State := (s.setScratch (splitDecoded s.scratch)).gotoStage .keyagree

end Sys2Proof.Machine
end

