-- ==== Sys2Proof/Machine/Kdf.lean ====
section
/-! DEFINITION. Stage KDF of DECONCEAL: the ANSI-X9.63 key derivation (43_kdf.md, step 6). -/

namespace Sys2Proof.Machine

/-- The SHA-256 input of round `c` (R191). -/
def kdfInput (sharedSecret kdfPublicKey : Bytes) (c : Nat) : Bytes := sharedSecret ++ be32 c ++ kdfPublicKey

/-- R192: the three keys of the derived buffer. -/
def splitKeys (c : Scratch) : Scratch :=
  { c with
    encKey := slice c.derived 0 Config.encKeyLen
    icb := slice c.derived Config.encKeyLen (Config.encKeyLen + Config.icbLen)
    macKey := slice c.derived (c.derived.length - Config.macKeyLen) c.derived.length }

/-- The next round's request, or the key split when every round is done (R190 to R192). -/
def kdfAdvance (s : State) : State :=
  if s.scratch.kdfRound < Config.kdfRounds then
    s.issue (.sha256 (kdfInput s.scratch.sharedSecret s.scratch.kdfPublicKey (s.scratch.kdfRound + 1)))
  else (s.setScratch (splitKeys s.scratch)).gotoStage .mac

/-- A round's digest joins the derived buffer (R191). -/
def takeDigest (s : State) : Answer → Result
  | .fail => .fault .sequencerInconsistent
  | .ok z =>
    .next
      ((s.setScratch
        { s.scratch with derived := s.scratch.derived ++ z, kdfRound := s.scratch.kdfRound + 1 }).release)

/-- Stage KDF. -/
def stageKdf (s : State) : Result :=
  match s.port with
  | .idle => .next (kdfAdvance s)
  | .requested _ => .next s
  | .answered a => takeDigest s a

end Sys2Proof.Machine
end

