-- ==== Sys2Proof/Machine/KeyAgreement.lean ====
section
/-! DEFINITION. Stage KEYAGREE of DECONCEAL (42_key_agreement.md, step 5). -/

namespace Sys2Proof.Machine

/-- R173: the request for Profile A. The KDF's key is the received key, as it came. -/
def agreeA (s : State) : State :=
  if s.slotA.valid then
    (s.setScratch { s.scratch with kdfPublicKey := s.scratch.ephemeralKey }).issue
      (.x25519 s.slotA.key.toList s.scratch.ephemeralKey)
  else s.raiseFail .keyNotLoaded

/-- R174, R177: the point of a Profile B key in its form. -/
def pointOf (form : KeyForm) (key : Bytes) : Option (Nat × Nat) :=
  match form with
  | .compressed => P256.recover key
  | .uncompressed => P256.splitPoint key

/-- R181: for Profile B the point, its compressed form for the KDF (R178) and the request (R180). -/
def agreeB (s : State) (form : KeyForm) : State :=
  if s.slotB.valid then
    match pointOf form s.scratch.ephemeralKey with
    | none => s.raiseFail .keyAgreementFailed
    | some pt =>
      (s.setScratch { s.scratch with point := some pt, kdfPublicKey := P256.compressPoint pt }).issue
        (.p256SmulX s.slotB.key.toList pt.1 pt.2)
  else s.raiseFail .keyNotLoaded

/-- The first move of KEYAGREE: the key-slot check (R170), the point, the request. -/
def beginAgreement (s : State) : Result :=
  match s.scratch.profile, s.scratch.form with
  | some .a, _ => .next (agreeA s)
  | some .b, some form => .next (agreeB s form)
  | some .b, none => .fault .sequencerInconsistent
  | none, _ => .fault .sequencerInconsistent

/-- The engine's answer: the shared secret, or KeyAgreementFailed (R173, R180). -/
def takeSharedSecret (s : State) : Answer → State
  | .fail => s.raiseFail .keyAgreementFailed
  | .ok z => ((s.setScratch { s.scratch with sharedSecret := z }).release).gotoStage .kdf

/-- Stage KEYAGREE: a request, a wait for its answer, and the use of the answer. -/
def stageKeyagree (s : State) : Result :=
  match s.port with
  | .idle => beginAgreement s
  | .requested _ => .next s
  | .answered a => .next (takeSharedSecret s a)

end Sys2Proof.Machine
end

