-- ==== Sys2Proof/Machine/MacDecrypt.lean ====
section
/-! DEFINITION. Stages MAC and DECRYPT of DECONCEAL (44_mac_decrypt.md, steps 7 and 8): decryption is requested
only after the MAC has compared equal (R203). -/

namespace Sys2Proof.Machine

/-- `diff` of R201: the OR of the differences of all eight byte pairs. -/
def macDiff (expected mac : Bytes) : Byte :=
  (List.range Config.macLen).foldl (fun d i => d ||| (expected.getD i 0 ^^^ mac.getD i 0)) 0

/-- R200, R201: the expected MAC is the first eight bytes of the tag, and is compared. -/
def takeTag (s : State) : Answer → Result
  | .fail => .fault .sequencerInconsistent
  | .ok tag =>
    let expected := slice tag 0 Config.macLen
    if macDiff expected s.scratch.mac ≠ 0 then
      .next ((s.setScratch { s.scratch with expectedMac := expected }).raiseFail .macVerificationFailed)
    else
      .next (((s.setScratch { s.scratch with expectedMac := expected }).release).gotoStage .decrypt)

/-- Stage MAC (R200, R201). -/
def stageMac (s : State) : Result :=
  match s.port with
  | .idle => .next (s.issue (.hmacSha256 s.scratch.macKey s.scratch.ciphertext))
  | .requested _ => .next s
  | .answered a => takeTag s a

/-- R202: the plaintext. -/
def takePlaintext (s : State) : Answer → Result
  | .fail => .fault .sequencerInconsistent
  | .ok z => .next (((s.setScratch { s.scratch with plaintext := z }).release).gotoStage .decode)

/-- Stage DECRYPT (R202). -/
def stageDecrypt (s : State) : Result :=
  match s.port with
  | .idle => .next (s.issue (.aes128Ctr s.scratch.encKey s.scratch.icb s.scratch.ciphertext))
  | .requested _ => .next s
  | .answered a => takePlaintext s a

end Sys2Proof.Machine
end

