-- ==== Sys2Proof/Machine/Output.lean ====
section
/-! DEFINITION. Stages DECODE, ASSEMBLE and COMMIT (45_output.md, steps 9 and 10). COMMIT ends every command. -/

namespace Sys2Proof.Machine

/-- Whether a supiType denotes IMSI (R106). -/
def isImsi (supiType : Bytes) : Bool := supiType == ascii "0"

/-- R210, R211: the digit string of a plaintext. -/
def decodeDigits (supiType plaintext : Bytes) : Bytes :=
  if isImsi supiType then tbcdDigits plaintext else hexLower plaintext

/-- Stage DECODE (R210, R211). -/
def stageDecode (s : State) : State :=
  (s.setScratch
    { s.scratch with digits := decodeDigits s.scratch.supiType s.scratch.plaintext }).gotoStage .assemble

/-- R215, R216: the result string. -/
def assembled (supiType mcc mnc digits : Bytes) : Bytes :=
  if isImsi supiType then ascii "imsi-" ++ mcc ++ mnc ++ digits else digits

/-- Stage ASSEMBLE (R215 to R217): RAW is 1 for a non-IMSI SUCI. -/
def stageAssemble (s : State) : State :=
  (s.setScratch
    { s.scratch with
      pending := { s.scratch.pending with raw := !isImsi s.scratch.supiType } }).emitChecked
    (assembled s.scratch.supiType s.scratch.mcc s.scratch.mnc s.scratch.digits)

/-- Stage COMMIT (R220): the completion transition; ZEROIZE's clearing is part of it (R245). -/
def stageCommit (s : State) : State :=
  if s.cmd = some .zeroize then s.clearStorage.complete s.scratch.pending else s.complete s.scratch.pending

end Sys2Proof.Machine
end

