-- ==== Sys2Proof/Machine/Parse.lean ====
section
/-! DEFINITION. Stages PARSE and DISPATCH of DECONCEAL: the SUCI parser and the scheme dispatcher
(40_parse_dispatch.md). No stage here makes a request (R140). -/

namespace Sys2Proof.Machine

/-- Whether the prefix says that the input is already a SUPI (R131). -/
def isPassthrough (fields : List Bytes) : Bool :=
  fields.headD [] == ascii "imsi" || fields.headD [] == ascii "nai"

/-- PASSTHROUGH (R132): IN is the result string, unchanged. -/
def passthrough (s : State) : State :=
  (s.setScratch
    { s.scratch with pending := { s.scratch.pending with kind := .passthrough, raw := false } }).emit s.input

/-- Stage PARSE (R130, R131): the fields, the prefix, and the field count of a SUCI. A passthrough goes from here
straight to COMMIT (R131, R132) or, where the block has the walk of R151's diagram, on to DISPATCH, which branches it
off: the spec leaves open which, and the parameter says it (log 28). -/
def stageParse (s : State) : State :=
  let fields := splitFields s.input
  let parsed := s.setScratch { s.scratch with fields := fields }
  if isPassthrough fields then
    if s.params.passthroughViaDispatch then parsed.gotoStage .dispatch else passthrough parsed
  else if fields.headD [] = ascii "suci" then
    if fields.length < 6 then s.raiseFail .invalidFormat else parsed.gotoStage .dispatch
  else s.raiseFail .unknownPrefix

/-- R135: the fields a SUCI's later stages use. -/
def bindFields (c : Scratch) : Scratch :=
  { c with
    supiType := c.fields.getD 1 []
    mcc := c.fields.getD 2 []
    mnc := c.fields.getD 3 []
    protectionScheme := c.fields.getD 5 []
    schemeOutput := c.fields.getLastD [] }

/-- NULL_SCHEME (R138): the scheme output is the digit string, verbatim. -/
def nullScheme (s : State) (c : Scratch) : State :=
  (s.setScratch
    { c with digits := c.schemeOutput, pending := { c.pending with kind := .null } }).gotoStage .assemble

/-- A profile is chosen (R136). -/
def chooseProfile (s : State) (c : Scratch) (q : Profile) (k : Kind) : State :=
  (s.setScratch { c with profile := some q, pending := { c.pending with kind := k } }).gotoStage .hexdec

/-- Stage DISPATCH: the passthrough branch of R151's diagram (log 28), else the schemes (R135 to R138). -/
def stageDispatch (s : State) : State :=
  let c := bindFields s.scratch
  if isPassthrough s.scratch.fields then passthrough s
  else if c.protectionScheme = ascii "0" then nullScheme s c
  else if c.protectionScheme = ascii "1" then chooseProfile s c .a .profileA
  else if c.protectionScheme = ascii "2" then chooseProfile s c .b .profileB
  else if s.ctrl.legacyNullFallback then nullScheme s c
  else s.raiseFail .unsupportedScheme

end Sys2Proof.Machine
end

