-- ==== Sys2Proof/Machine/Sequencer.lean ====
section
/-! DEFINITION. The sequencer's moves in the stage order of R151, the engines' answers, and a command run from
its accept to its completion. -/

namespace Sys2Proof.Machine

/-- Where CHECK sends an accepted command that passes its test (R150). -/
def stageAfterCheck : Instr → Stage
  | .deconceal => .parse
  | .p256Decompress => .aux
  | .p256Compress => .aux
  | .tbcdDecode => .aux
  | .zeroize => .aux
  | .illegal _ _ => .aux

/-- Stage CHECK (R150, R250). -/
def stageCheck (s : State) : Result :=
  match s.cmd with
  | none => .fault .sequencerInconsistent
  | some (.illegal _ _) => .next (s.raiseFail .illegalCommand)
  | some i =>
    if checksLength i && decide (s.params.inBufSize < s.inLen.toNat) then .next (s.raiseFail .lengthError)
    else .next (s.gotoStage (stageAfterCheck i))

/-- One move of the sequencer (R50, R151). In IDLE, and while a request waits for its engine, it stays. -/
def sequencerMove (s : State) : Result :=
  match s.stage with
  | .idle => .next s
  | .check => stageCheck s
  | .parse => .next (stageParse s)
  | .dispatch => .next (stageDispatch s)
  | .hexdec => .next (stageHexdec s)
  | .keylen => stageKeylen s
  | .split => .next (stageSplit s)
  | .keyagree => stageKeyagree s
  | .kdf => stageKdf s
  | .mac => stageMac s
  | .decrypt => stageDecrypt s
  | .decode => .next (stageDecode s)
  | .assemble => .next (stageAssemble s)
  | .commit => .next (stageCommit s)
  | .aux => stageAux s

/-- The engine with the outstanding request answers it; an answer nobody waits for is discarded (R14, R291). -/
def engineMove (s : State) : State :=
  match s.port with
  | .requested r => s.deliver (engineAnswer r)
  | .idle => s
  | .answered _ => s

/-- What the block does when nothing comes from outside: the engine with an outstanding request answers, else
the sequencer moves (log 2). -/
def ownMove (s : State) : Result :=
  match s.port with
  | .requested _ => .next (engineMove s)
  | .idle => sequencerMove s
  | .answered _ => sequencerMove s

/-- `n` own moves one after another; an idle block stays as it is. -/
def settle : Nat → State → Result
  | 0, s => .next s
  | n + 1, s =>
    match ownMove s with
    | .next s' => settle n s'
    | .fault f => .fault f
    | .refused r => .refused r

/-- The moves on the longest path of R151, from the accept to IDLE: CHECK, PARSE, DISPATCH, HEXDEC, KEYLEN,
SPLIT, three in KEYAGREE, seven in KDF, three in MAC, three in DECRYPT, DECODE, ASSEMBLE, COMMIT. The number is the
model's own (log 21): LATENCY is open (R9, R306). -/
def commandMoves : Nat := 25

/-- A CMD write of a command, and, where it is accepted, the block's own moves up to the completion (R116,
R150, R220). While another command runs the write is ignored and sets OVERRUN (R300). -/
def runCommand (i : Instr) (s : State) : Result :=
  if s.busy then .next (s.setOverrun.respond (.write .okay))
  else settle commandMoves ((s.accept i).respond (.write .okay))

end Sys2Proof.Machine
end

