-- ==== Sys2Proof/Machine/Commands.lean ====
section
/-! DEFINITION. The meaning of each command: its CMD write, its stages and its completion, with no other event
between (R150, R151, R220). -/

namespace Sys2Proof.Machine

/-- DECONCEAL (R150 to R156). -/
def execDeconceal (s : State) : Result := runCommand .deconceal s

/-- P256_DECOMPRESS (R230). -/
def execP256Decompress (s : State) : Result := runCommand .p256Decompress s

/-- P256_COMPRESS (R235). -/
def execP256Compress (s : State) : Result := runCommand .p256Compress s

/-- TBCD_DECODE (R240). -/
def execTbcdDecode (s : State) : Result := runCommand .tbcdDecode s

/-- ZEROIZE (R245). -/
def execZeroize (s : State) : Result := runCommand .zeroize s

/-- ILLEGAL (R250): completes with IllegalCommand. -/
def execIllegal (opcode : BitVec 8) (rsvd : BitVec 24) (s : State) : Result :=
  runCommand (.illegal opcode rsvd) s

end Sys2Proof.Machine
end

