-- ==== Sys2Proof/Machine/Dispatch.lean ====
section
/-! DEFINITION. One arm per command. -/

namespace Sys2Proof.Machine

def exec (i : Instr) (s : State) : Host.Outcome State Fault Refusal :=
  match i with
  | .deconceal => Sys2Proof.Machine.execDeconceal s
  | .p256Decompress => Sys2Proof.Machine.execP256Decompress s
  | .p256Compress => Sys2Proof.Machine.execP256Compress s
  | .tbcdDecode => Sys2Proof.Machine.execTbcdDecode s
  | .zeroize => Sys2Proof.Machine.execZeroize s
  | .illegal opcode rsvd => Sys2Proof.Machine.execIllegal opcode rsvd s

end Sys2Proof.Machine
end

