-- ==== Sys2Proof/Machine/Step.lean ====
section
/-! DEFINITION. One step: the next event of the agenda, or a move of the block's own when none is due (R264). -/

namespace Sys2Proof.Machine

/-- What an event does. -/
def happen (e : Event) (s : State) : Host.Outcome State Fault Refusal :=
  match e with
  | .read addr width => busRead addr width s
  | .write addr width data => busWrite addr width data s
  | .run word => exec (decodeWord word) s
  | .sequencerMove => sequencerMove s
  | .engineMove => .next (engineMove s)
  | .lateAnswer => .next s.discardLate
  | .reset => .next s.assertReset

/-- One step of the machine. -/
def step (s : State) : Host.Outcome State Fault Refusal :=
  match s.agenda with
  | [] => ownMove s
  | e :: rest => happen e (s.setAgenda rest)

/-- The opcode table's bits as the next command the host runs: nothing is fetched, so the word is put at the
head of the agenda as a `run` (log 4). -/
def State.withFetchWord (s : State) (nbits w : Nat) : State :=
  s.setAgenda (.run (tableWord nbits w) :: s.agenda)

end Sys2Proof.Machine
end

