-- ==== Sys2Proof/Safety.lean ====
section
/-! DEFINITION. The terms the claims use: a command's outcome as a pure function of its inputs (R150, "Purity"),
written rule by rule without the sequencer, and the invariants of the machine. -/

namespace Sys2Proof.Machine

/-! ## A command's outcome as a pure function -/

/-- The inputs of a command (R150, R103), with the two buffer sizes of R9. -/
structure Inputs where
  input : Bytes
  inLen : Nat
  legacyNullFallback : Bool
  slotA : KeySlot
  slotB : KeySlot
  inBufSize : Nat
  outBufSize : Nat
deriving DecidableEq, Repr

/-- The inputs a command accepted now would have. -/
def State.inputs (s : State) : Inputs :=
  { input := s.input, inLen := s.inLen.toNat, legacyNullFallback := s.ctrl.legacyNullFallback,
    slotA := s.slotA, slotB := s.slotB, inBufSize := s.params.inBufSize,
    outBufSize := s.params.outBufSize }

/-- A failure: only RESULT and KIND are recorded (R222, R271). -/
def failed (code : ResultCode) (kind : Kind) : Pending := { code := code, out := [], kind := kind, raw := false }

/-- A success. -/
def succeeded (out : Bytes) (kind : Kind) (raw : Bool) : Pending :=
  { code := .ok, out := out, kind := kind, raw := raw }

/-- A success unless the result is longer than OUT_BUF (R217). -/
def sized (c : Inputs) (out : Bytes) (kind : Kind) (raw : Bool) : Pending :=
  if c.outBufSize < out.length then failed .lengthError kind else succeeded out kind raw

/-- The fields of a SUCI that the outcome depends on (R135). -/
structure Suci where
  supiType : Bytes
  mcc : Bytes
  mnc : Bytes
  protectionScheme : Bytes
  schemeOutput : Bytes
deriving DecidableEq, Repr

/-- R135: supiType 1, mcc 2, mnc 3, protectionScheme 5, schemeOutput the last field. -/
def suciOf (fields : List Bytes) : Suci :=
  { supiType := fields.getD 1 [], mcc := fields.getD 2 [], mnc := fields.getD 3 [],
    protectionScheme := fields.getD 5 [], schemeOutput := fields.getLastD [] }

/-- R215 to R217: the result for a digit string. -/
def assembleOutcome (c : Inputs) (u : Suci) (kind : Kind) (digits : Bytes) : Pending :=
  sized c (assembled u.supiType u.mcc u.mnc digits) kind (!isImsi u.supiType)

/-- R153, R154: the length and the form of the public key in `S`. -/
def keyLayout (q : Profile) (decoded : Bytes) : Except ResultCode (Nat × Option KeyForm) :=
  let sizedFor (n : Nat) (form : Option KeyForm) : Except ResultCode (Nat × Option KeyForm) :=
    if decoded.length < n + Config.macLen then .error .inputTooShort else .ok (n, form)
  match q with
  | .a => sizedFor 32 none
  | .b =>
    match decoded with
    | [] => .error .inputTooShort
    | b :: _ =>
      if b = 0x02 ∨ b = 0x03 then sizedFor 33 (some .compressed)
      else if b = 0x04 then sizedFor 65 (some .uncompressed)
      else .error .invalidPublicKeyEncoding

/-- R170 to R181: the shared secret and the KDF's public key. -/
def agree (c : Inputs) (q : Profile) (form : Option KeyForm) (eph : Bytes) : Except ResultCode (Bytes × Bytes) :=
  match q with
  | .a =>
    if c.slotA.valid then
      match answerX25519 c.slotA.key.toList eph with
      | .fail => .error .keyAgreementFailed
      | .ok z => .ok (z, eph)
    else .error .keyNotLoaded
  | .b =>
    if c.slotB.valid then
      match pointOf (form.getD .compressed) eph with
      | none => .error .keyAgreementFailed
      | some pt =>
        match answerP256SmulX c.slotB.key.toList pt.1 pt.2 with
        | .fail => .error .keyAgreementFailed
        | .ok z => .ok (z, P256.compressPoint pt)
    else .error .keyNotLoaded

/-- R191: the 64-byte derived buffer. -/
def derivedBuffer (sharedSecret kdfPublicKey : Bytes) : Bytes :=
  Sha256.digest (kdfInput sharedSecret kdfPublicKey 1) ++ Sha256.digest (kdfInput sharedSecret kdfPublicKey 2)

/-- R192 to R202: MAC first, and the plaintext only where it compared equal. -/
def openCiphertext (sharedSecret kdfPublicKey ciphertext mac : Bytes) : Except ResultCode Bytes :=
  let k := derivedBuffer sharedSecret kdfPublicKey
  let tag := Sha256.hmac (slice k 32 64) ciphertext
  if slice tag 0 8 = mac then .ok (Aes128.ctr (slice k 0 16) (slice k 16 32) ciphertext)
  else .error .macVerificationFailed

/-- Steps 1 to 8 for a profile: the plaintext of a scheme output (R152 to R202). -/
def profilePlaintext (c : Inputs) (q : Profile) (schemeOutput : Bytes) : Except ResultCode Bytes :=
  match hexDecode schemeOutput with
  | none => .error .hexDecodeFailed
  | some d =>
    match keyLayout q d with
    | .error e => .error e
    | .ok (n, form) =>
      match agree c q form (slice d 0 n) with
      | .error e => .error e
      | .ok (z, key) => openCiphertext z key (slice d n (d.length - 8)) (slice d (d.length - 8) d.length)

/-- The KIND of a profile (R114). -/
def profileKind : Profile → Kind
  | .a => .profileA
  | .b => .profileB

/-- The outcome of a SUCI under a profile. -/
def profileOutcome (c : Inputs) (u : Suci) (q : Profile) : Pending :=
  match profilePlaintext c q u.schemeOutput with
  | .error e => failed e (profileKind q)
  | .ok plain => assembleOutcome c u (profileKind q) (decodeDigits u.supiType plain)

/-- The outcome of a SUCI of six or more fields (R136 to R138). -/
def suciOutcome (c : Inputs) (u : Suci) : Pending :=
  if u.protectionScheme = ascii "0" then assembleOutcome c u .null u.schemeOutput
  else if u.protectionScheme = ascii "1" then profileOutcome c u .a
  else if u.protectionScheme = ascii "2" then profileOutcome c u .b
  else if c.legacyNullFallback then assembleOutcome c u .null u.schemeOutput
  else failed .unsupportedScheme .none

/-- The outcome of DECONCEAL (R131 to R217, in the precedence of R263). -/
def deconcealOutcome (c : Inputs) : Pending :=
  let fields := splitFields c.input
  if c.inBufSize < c.inLen then failed .lengthError .none
  else if fields.headD [] = ascii "imsi" ∨ fields.headD [] = ascii "nai" then
    succeeded c.input .passthrough false
  else if fields.headD [] = ascii "suci" then
    if fields.length < 6 then failed .invalidFormat .none else suciOutcome c (suciOf fields)
  else failed .unknownPrefix .none

/-- The result of a recovered point, in the form an auxiliary command emits it. -/
def pointOutcome (c : Inputs) (form : Nat × Nat → Bytes) : Option (Nat × Nat) → Pending
  | none => failed .keyAgreementFailed .aux
  | some pt => sized c (form pt) .aux false

/-- The outcome of P256_DECOMPRESS (R230). -/
def p256DecompressOutcome (c : Inputs) : Pending :=
  if c.inBufSize < c.inLen then failed .lengthError .aux
  else if c.input.length = 0 then failed .lengthError .aux
  else if ¬ (c.input.head? = some 0x02 ∨ c.input.head? = some 0x03) then failed .invalidPublicKeyEncoding .aux
  else if c.input.length ≠ 33 then failed .lengthError .aux
  else pointOutcome c P256.uncompressPoint (P256.recover c.input)

/-- The outcome of P256_COMPRESS (R235). -/
def p256CompressOutcome (c : Inputs) : Pending :=
  if c.inBufSize < c.inLen then failed .lengthError .aux
  else if c.input.length = 0 then failed .lengthError .aux
  else if c.input.head? = some 0x04 then
    if c.input.length ≠ 65 then failed .lengthError .aux
    else pointOutcome c P256.compressPoint (P256.splitPoint c.input)
  else if c.input.head? = some 0x02 ∨ c.input.head? = some 0x03 then
    if c.input.length ≠ 33 then failed .lengthError .aux
    else pointOutcome c P256.compressPoint (P256.recover c.input)
  else failed .invalidPublicKeyEncoding .aux

/-- The outcome of TBCD_DECODE (R240). -/
def tbcdDecodeOutcome (c : Inputs) : Pending :=
  if c.inBufSize < c.inLen then failed .lengthError .aux else sized c (tbcdDigits c.input) .aux false

/-- The outcome of a command (R150). -/
def commandOutcome (c : Inputs) : Instr → Pending
  | .deconceal => deconcealOutcome c
  | .p256Decompress => p256DecompressOutcome c
  | .p256Compress => p256CompressOutcome c
  | .tbcdDecode => tbcdDecodeOutcome c
  | .zeroize => succeeded [] .aux false
  | .illegal _ _ => failed .illegalCommand .none

/-- The state a command leaves that was accepted in `s` (R220, R245): its outcome has become visible. -/
def State.afterCommand (s : State) (i : Instr) : State :=
  ((if i = .zeroize then s.clearStorage else s).complete (commandOutcome s.inputs i)).respond (.write .okay)

/-- `t` is what `s` becomes when a command completes with the outcome `q` (R220, R221), and nothing else has
changed: the frame of every command but ZEROIZE. A failure has no result string and RAW 0. (That `cmd` is none is the
model's choice, log 29.) -/
structure Completed (s t : State) (q : Pending) : Prop where
  status : t.status = { s.status with done := true, result := q.code, kind := q.kind, raw := q.raw }
  outLen : t.outLen.toNat = q.out.length
  output : t.output = q.out
  memory : ∀ a, ¬ (Config.outBufBase ≤ a ∧ a < Config.outBufBase + q.out.length) → t.byteAt a = s.byteAt a
  sequencer : t.stage = .idle ∧ t.cmd = none ∧ t.port = .idle ∧ t.scratch = Scratch.empty
  ctrl : t.ctrl = s.ctrl
  inLen : t.inLen = s.inLen
  slotA : t.slotA = s.slotA
  slotB : t.slotB = s.slotB
  others : t.params = s.params ∧ t.draw = s.draw ∧ t.orphans = s.orphans ∧ t.agenda = s.agenda
  response : t.response = some (.write .okay)

/-- The block can accept a command: its parameters are legal (R9) and no command is running (R37). -/
def State.ready (s : State) : Prop := s.params.wf ∧ s.busy = false

/-- IN is a SUCI with at least six fields, whose bound fields are `u`, under a legal IN_LEN (R131, R135). -/
def State.holdsSuci (s : State) (u : Suci) : Prop :=
  s.inLen.toNat ≤ s.params.inBufSize ∧ (splitFields s.input).headD [] = ascii "suci" ∧
    6 ≤ (splitFields s.input).length ∧ suciOf (splitFields s.input) = u

/-- An event that neither writes nor resets: a move of the block or a host read inside the window. -/
def quietEvent (p : Params) : Event → Prop
  | .read addr _ => windowOffset p addr ≠ none
  | .sequencerMove => True
  | .engineMove => True
  | .write _ _ _ => False
  | .run _ => False
  | .lateAnswer => False
  | .reset => False

/-! ## Invariants -/

/-- An offset that IN_BUF or OUT_BUF has (R45, R46). -/
def bufferOffset (p : Params) (a : Nat) : Prop :=
  (Config.inBufBase ≤ a ∧ a < Config.inBufBase + p.inBufSize) ∨
    (Config.outBufBase ≤ a ∧ a < Config.outBufBase + p.outBufSize)

/-- What is waiting to be written fits: PARSE and DISPATCH are reached only with a legal IN_LEN (R150), and a success
holds a result no longer than OUT_BUF (R132, R217). -/
def State.OutputFits (s : State) : Prop :=
  (s.stage = .parse ∨ s.stage = .dispatch → s.inLen.toNat ≤ s.params.inBufSize) ∧
    (s.stage = .commit → s.scratch.pending.code = .ok →
      s.scratch.pending.out.length ≤ s.params.outBufSize)

/-- The buffers' memory is in its canonical form and lists only buffer bytes, OUT_LEN is within OUT_BUF (R40),
and what is waiting to be written fits. -/
def State.MemoryInv (s : State) : Prop :=
  s.mem.wf ∧ (∀ c ∈ s.mem, bufferOffset s.params c.1) ∧ s.outLen.toNat ≤ s.params.outBufSize ∧ s.OutputFits

/-- While BUSY, no result is visible: DONE, RESULT, KIND, RAW and OUT_LEN read 0 (R37, R40, R301). -/
def State.HiddenWhileBusy (s : State) : Prop :=
  s.busy = true →
    s.status.done = false ∧ s.status.result = .ok ∧ s.status.kind = .none ∧ s.status.raw = false ∧ s.outLen = 0

/-- The stages in which a request may be on the port (R151). -/
def Stage.usesEngine : Stage → Bool
  | .keyagree => true
  | .kdf => true
  | .mac => true
  | .decrypt => true
  | .idle => false
  | .check => false
  | .parse => false
  | .dispatch => false
  | .hexdec => false
  | .keylen => false
  | .split => false
  | .decode => false
  | .assemble => false
  | .commit => false
  | .aux => false

/-- The commands that can be in a stage (R150, R151). -/
def Stage.admits : Stage → Option Instr → Prop
  | .idle, c => c = none
  | .check, c => c ≠ none
  | .commit, c => c ≠ none
  | .aux, c => c = some .p256Decompress ∨ c = some .p256Compress ∨ c = some .tbcdDecode ∨ c = some .zeroize
  | .parse, c => c = some .deconceal
  | .dispatch, c => c = some .deconceal
  | .hexdec, c => c = some .deconceal
  | .keylen, c => c = some .deconceal
  | .split, c => c = some .deconceal
  | .keyagree, c => c = some .deconceal
  | .kdf, c => c = some .deconceal
  | .mac, c => c = some .deconceal
  | .decrypt, c => c = some .deconceal
  | .decode, c => c = some .deconceal
  | .assemble, c => c = some .deconceal

/-- What the port may hold in a stage: a request of that stage's engine, or an answer; only the key-agreement
engines may fail (R15 to R19, R151). -/
def portFits (st : Stage) : Port → Prop
  | .idle => True
  | .requested r =>
    match r with
    | .x25519 _ _ => st = .keyagree
    | .p256SmulX _ _ _ => st = .keyagree
    | .sha256 _ => st = .kdf
    | .hmacSha256 _ _ => st = .mac
    | .aes128Ctr _ _ _ => st = .decrypt
  | .answered a => st.usesEngine = true ∧ (a = .fail → st = .keyagree)

/-- The stages in which a profile has been chosen (R136). -/
def Stage.afterDispatch : Stage → Bool
  | .hexdec => true
  | .keylen => true
  | .split => true
  | .keyagree => true
  | .kdf => true
  | .mac => true
  | .decrypt => true
  | .decode => true
  | .idle => false
  | .check => false
  | .parse => false
  | .dispatch => false
  | .assemble => false
  | .commit => false
  | .aux => false

/-- The sequencer holds a combination of stage, command, port and scratch that its rules make (R50, R151). -/
def State.SequencerInv (s : State) : Prop :=
  s.stage.admits s.cmd ∧ portFits s.stage s.port ∧
    (s.stage.afterDispatch = true → s.scratch.profile ≠ none) ∧
    (s.stage = .split ∨ s.stage = .keyagree → s.scratch.profile = some .b → s.scratch.form ≠ none) ∧
    (s.stage = .idle → s.scratch = Scratch.empty)

/-- MAC-then-decrypt (R203): a plaintext is held only from DECODE on, and wherever decryption may be requested or
a plaintext is held, the MAC has compared equal. -/
def State.MacVerified (s : State) : Prop :=
  (s.scratch.plaintext ≠ [] → s.stage = .decode ∨ s.stage = .assemble ∨ s.stage = .commit) ∧
    (s.stage = .decrypt ∨ s.stage = .decode ∨ s.scratch.plaintext ≠ [] →
      macDiff s.scratch.expectedMac s.scratch.mac = 0)

end Sys2Proof.Machine
end

