-- ==== Sys2Proof/Certificates/Slice0/Obligations.lean ====
section
/-! DEFINITION. The statements for the provers. -/

open Sys2Proof Sys2Proof.Machine

/-! ## Encoding -/

/-- Decoding an encoded well-formed command gives it back, as a word, as bytes with any bytes after them, and as
opcode-table bits (R100 to R102). -/
def Obligations.DecodeOfEncodeIsIdentity : Prop :=
  ∀ i : Instr, i.WellFormed →
    decodeWord (encodeWord i) = i ∧
    (∀ rest : Bytes, decode (encodeBytes i ++ rest) = .ok (i, rest)) ∧
    decodeTableWord 32 (encodeWord i).toNat = some i

/-- Every word decodes to a well-formed command whose encoding is that word: no bit of a command word is dropped
(R100, R101). -/
def Obligations.EncodeOfDecodeIsIdentity : Prop :=
  ∀ v : Word, (decodeWord v).WellFormed ∧ encodeWord (decodeWord v) = v

/-- R101's decoding, field by field: RSVD not 0 is ILLEGAL whatever OPCODE holds; with RSVD 0 the five opcodes
name their commands and every other one is ILLEGAL. -/
def Obligations.DecodingFollowsTheFields : Prop :=
  ∀ v : Word,
    (v.extractLsb' 8 24 ≠ 0 → decodeWord v = .illegal (v.extractLsb' 0 8) (v.extractLsb' 8 24)) ∧
    (v.extractLsb' 8 24 = 0 →
      (v.extractLsb' 0 8 = 1 → decodeWord v = .deconceal) ∧
      (v.extractLsb' 0 8 = 2 → decodeWord v = .p256Decompress) ∧
      (v.extractLsb' 0 8 = 3 → decodeWord v = .p256Compress) ∧
      (v.extractLsb' 0 8 = 4 → decodeWord v = .tbcdDecode) ∧
      (v.extractLsb' 0 8 = 5 → decodeWord v = .zeroize) ∧
      (v.extractLsb' 0 8 = 0 ∨ 5 < (v.extractLsb' 0 8).toNat →
        decodeWord v = .illegal (v.extractLsb' 0 8) 0))

/-- R102's five words, two reserved opcodes and a word with RSVD not 0, written out. -/
def Obligations.TableWordsDecode : Prop :=
  decodeWord 0x00000001 = .deconceal ∧ decodeWord 0x00000002 = .p256Decompress ∧
  decodeWord 0x00000003 = .p256Compress ∧ decodeWord 0x00000004 = .tbcdDecode ∧
  decodeWord 0x00000005 = .zeroize ∧ decodeWord 0x00000000 = .illegal 0x00 0x000000 ∧
  decodeWord 0x00000006 = .illegal 0x06 0x000000 ∧ decodeWord 0x00000101 = .illegal 0x01 0x000001

/-- A `run` at the head of the agenda is executed as the command its word decodes to, on the state with that
event taken off; `withFetchWord` puts the table's bits there. The agenda and its `run` event are the model's
choice of how a program comes to run (log 1, log 3, log 4): the block fetches nothing (R31). -/
def Obligations.RunStepExecutesDecodedCommand : Prop :=
  (∀ (s : State) (v : Word) (rest : List Event), s.agenda = .run v :: rest →
    step s = exec (decodeWord v) (s.setAgenda rest)) ∧
  (∀ (s : State) (nbits w : Nat),
    step (s.withFetchWord nbits w) = exec (decodeWord (BitVec.ofNat 32 (w % 2 ^ nbits))) s)

/-! ## Commands -/

/-- Every command accepted by an idle block completes, and the state it leaves is that of its outcome as a pure
function of its inputs: the sequencer's walk through the stages (R151) refines the function (R150). `exec` is a
fair run with no other event between: every engine answers and the sequencer keeps moving (log 2, log 3; U6).
That `cmd` is none afterwards is the model's choice (log 29). -/
def Obligations.ExecRefinesPureOutcome : Prop :=
  ∀ (i : Instr) (s : State), s.busy = false → exec i s = .next (s.afterCommand i)

/-- Purity (R150): two idle blocks that agree on the inputs give the same RESULT, KIND, RAW, OUT_LEN and result
bytes, whatever their earlier commands, stored results and agendas were. `exec` is a fair run (log 2, log 3). -/
def Obligations.OutcomeDependsOnInputsAlone : Prop :=
  ∀ (i : Instr) (s t : State), s.ready → t.ready → s.inputs = t.inputs →
    ∃ s' t', exec i s = .next s' ∧ exec i t = .next t' ∧
      s'.status.result = t'.status.result ∧ s'.status.kind = t'.status.kind ∧
      s'.status.raw = t'.status.raw ∧ s'.outLen = t'.outLen ∧ s'.output = t'.output

/-- A command written while another runs is not accepted: it only sets OVERRUN (R150, R300). That `exec` on a
busy block is such a write is the model's reading (log 23). -/
def Obligations.CommandWhileBusyOnlySetsOverrun : Prop :=
  ∀ (i : Instr) (s : State), s.busy = true →
    exec i s = .next
      { s with status := { s.status with overrun := true }, response := some (.write .okay) }

/-- The CHECK stage (R150): with IN_LEN over IN_BUF_SIZE each of the four commands that read IN completes with
LengthError and its initial KIND. `exec` is a fair run (log 2, log 3); that `cmd` is none afterwards
(`Completed`) is the model's choice (log 29). -/
def Obligations.OversizedInputCompletesWithLengthError : Prop :=
  ∀ s : State, s.ready → s.params.inBufSize < s.inLen.toNat →
    (∃ t, exec .deconceal s = .next t ∧ Completed s t (failed .lengthError .none)) ∧
    (∃ t, exec .p256Decompress s = .next t ∧ Completed s t (failed .lengthError .aux)) ∧
    (∃ t, exec .p256Compress s = .next t ∧ Completed s t (failed .lengthError .aux)) ∧
    (∃ t, exec .tbcdDecode s = .next t ∧ Completed s t (failed .lengthError .aux))

/-- ILLEGAL (R250): a word with RSVD not 0, or with an OPCODE outside 0x01 to 0x05, is an ILLEGAL command; an
ILLEGAL command completes with IllegalCommand, KIND NONE and OUT_LEN 0, and changes nothing else. The
completion's frame is that of R220 and R221. `exec` is a fair run (log 2, log 3); that `cmd` is none afterwards
is the model's choice (log 29). -/
def Obligations.IllegalCommandCompletes : Prop :=
  (∀ v : Word,
    v.extractLsb' 8 24 ≠ 0 ∨ v.extractLsb' 0 8 = 0 ∨ 5 < (v.extractLsb' 0 8).toNat →
    decodeWord v = .illegal (v.extractLsb' 0 8) (v.extractLsb' 8 24)) ∧
  ∀ (opcode : BitVec 8) (rsvd : BitVec 24) (s : State), s.ready →
    ∃ t, exec (.illegal opcode rsvd) s = .next t ∧ Completed s t (failed .illegalCommand .none)

/-- ZEROIZE (R245): always succeeds with KIND AUX; both slots, IN_BUF, IN_LEN and the OUT_BUF storage are zero;
CTRL, OVERRUN and everything else stay. (That `cmd` is none afterwards is the model's choice, log 29.) The idle
sequencer is that of every completion (R220, R221). `exec` is a fair run (log 2, log 3). -/
def Obligations.ZeroizeClearsEverything : Prop :=
  ∀ s : State, s.ready →
    ∃ t, exec .zeroize s = .next t ∧
      t.status = { s.status with done := true, result := .ok, kind := .aux, raw := false } ∧
      t.outLen = 0 ∧ t.inLen = 0 ∧
      t.slotA = { key := Vector.replicate 32 0, valid := false } ∧
      t.slotB = { key := Vector.replicate 32 0, valid := false } ∧
      (∀ i, i < s.params.inBufSize → t.inByte i = 0) ∧
      (∀ i, i < s.params.outBufSize → t.byteAt (0x800 + i) = 0) ∧
      (∀ a, ¬ bufferOffset s.params a → t.byteAt a = s.byteAt a) ∧
      t.ctrl = s.ctrl ∧ t.stage = .idle ∧ t.cmd = none ∧ t.port = .idle ∧ t.scratch = Scratch.empty ∧
      t.params = s.params ∧ t.draw = s.draw ∧ t.orphans = s.orphans ∧ t.agenda = s.agenda ∧
      t.response = some (.write .okay)

/-- TBCD_DECODE (R240): the nibble-swapped bytes in lowercase hex, one final `f` stripped; LengthError exactly
when that is longer than OUT_BUF, which for a 1024-byte OUT_BUF means 513 bytes or more of IN. The completion's
frame is that of R220 and R221. `exec` is a fair run (log 2, log 3); that `cmd` is none afterwards is the
model's choice (log 29). -/
def Obligations.TbcdDecodeResult : Prop :=
  ∀ s : State, s.ready → s.inLen.toNat ≤ s.params.inBufSize →
    let h := hexLower (swapNibbles s.input)
    let digits := if h.getLast? = some 0x66 then h.dropLast else h
    (∃ t, exec .tbcdDecode s = .next t ∧
      Completed s t
        (if s.params.outBufSize < digits.length then failed .lengthError .aux
         else succeeded digits .aux false)) ∧
    (s.params.outBufSize = 1024 → (1024 < digits.length ↔ 513 ≤ s.inLen.toNat))

/-- P256_DECOMPRESS (R230, with R217's output check, log 22): its checks in their order, and the 65 bytes of the
recovered point. `exec` is a fair run (log 2, log 3); that `cmd` is none afterwards (`Completed`) is the model's
choice (log 29). The curve's constants and encodings are log 16. -/
def Obligations.P256DecompressResult : Prop :=
  ∀ s : State, s.ready → s.inLen.toNat ≤ s.params.inBufSize →
    ∃ t, exec .p256Decompress s = .next t ∧
      Completed s t
        (if s.input.length = 0 then failed .lengthError .aux
         else if s.input.headD 0 ≠ 0x02 ∧ s.input.headD 0 ≠ 0x03 then failed .invalidPublicKeyEncoding .aux
         else if s.input.length ≠ 33 then failed .lengthError .aux
         else
          match P256.recover s.input with
          | none => failed .keyAgreementFailed .aux
          | some (x, y) =>
            if s.params.outBufSize < 65 then failed .lengthError .aux
            else succeeded (0x04 :: (i2osp x 32 ++ i2osp y 32)) .aux false)

/-- P256_COMPRESS (R235, with R217's output check, log 22): its checks in their order, and the 33 bytes of the
compressed point. `exec` is a fair run (log 2, log 3); that `cmd` is none afterwards (`Completed`) is the
model's choice (log 29). The curve's constants and encodings are log 16. -/
def Obligations.P256CompressResult : Prop :=
  ∀ s : State, s.ready → s.inLen.toNat ≤ s.params.inBufSize →
    let emitted : Option (Nat × Nat) → Pending := fun pt =>
      match pt with
      | none => failed .keyAgreementFailed .aux
      | some (x, y) =>
        if s.params.outBufSize < 33 then failed .lengthError .aux
        else succeeded (BitVec.ofNat 8 (2 + y % 2) :: i2osp x 32) .aux false
    ∃ t, exec .p256Compress s = .next t ∧
      Completed s t
        (if s.input.length = 0 then failed .lengthError .aux
         else if s.input.headD 0 = 0x04 then
          if s.input.length ≠ 65 then failed .lengthError .aux
          else
            emitted
              (if P256.onCurve (os2ip (slice s.input 1 33)) (os2ip (slice s.input 33 65)) then
                some (os2ip (slice s.input 1 33), os2ip (slice s.input 33 65))
               else none)
         else if s.input.headD 0 = 0x02 ∨ s.input.headD 0 = 0x03 then
          if s.input.length ≠ 33 then failed .lengthError .aux else emitted (P256.recover s.input)
         else failed .invalidPublicKeyEncoding .aux)

/-- Passthrough (R132): an `imsi` or `nai` input is returned unchanged with KIND PASSTHROUGH, whatever the key
slots hold and by whichever walk the block takes (log 28). The completion's frame is that of R220 and R221.
`exec` is a fair run (log 2, log 3); that `cmd` is none afterwards is the model's choice (log 29). That the
result fits rests on IN_BUF_SIZE being at most OUT_BUF_SIZE (log 6). -/
def Obligations.PassthroughReturnsInput : Prop :=
  ∀ s : State, s.ready → s.inLen.toNat ≤ s.params.inBufSize →
    ((splitFields s.input).headD [] = ascii "imsi" ∨ (splitFields s.input).headD [] = ascii "nai") →
    ∃ t, exec .deconceal s = .next t ∧ Completed s t (succeeded s.input .passthrough false) ∧
      t.outLen = s.inLen

/-- The parser's two failures (R131, R133, R134): another prefix, whatever the field count, is UnknownPrefix; a
`suci` with fewer than six fields is InvalidFormat; KIND is NONE. `exec` is a fair run (log 2, log 3); that
`cmd` is none afterwards (`Completed`) is the model's choice (log 29). -/
def Obligations.ParserFailures : Prop :=
  ∀ s : State, s.ready → s.inLen.toNat ≤ s.params.inBufSize →
    ((splitFields s.input).headD [] ≠ ascii "imsi" → (splitFields s.input).headD [] ≠ ascii "nai" →
      (splitFields s.input).headD [] ≠ ascii "suci" →
      ∃ t, exec .deconceal s = .next t ∧ Completed s t (failed .unknownPrefix .none)) ∧
    ((splitFields s.input).headD [] = ascii "suci" → (splitFields s.input).length < 6 →
      ∃ t, exec .deconceal s = .next t ∧ Completed s t (failed .invalidFormat .none))

/-- The Null scheme (R138, R215, R216): the scheme output verbatim, after `imsi-`, MCC and MNC for supiType "0"
and alone with RAW = 1 otherwise. It always fits in OUT_BUF (R217, with IN_BUF_SIZE at most OUT_BUF_SIZE, log
6). `exec` is a fair run (log 2, log 3); that `cmd` is none afterwards (`Completed`) is the model's choice (log
29). -/
def Obligations.NullSchemeResult : Prop :=
  ∀ (s : State) (u : Suci), s.ready → s.holdsSuci u → u.protectionScheme = ascii "0" →
    ∃ t, exec .deconceal s = .next t ∧
      Completed s t
        (if u.supiType = ascii "0" then
          succeeded (ascii "imsi-" ++ u.mcc ++ u.mnc ++ u.schemeOutput) .null false
         else succeeded u.schemeOutput .null true)

/-- An unrecognised protection scheme (R137): UnsupportedScheme with KIND NONE while LEGACY_NULL_FALLBACK is 0,
the Null scheme's result while it is 1. `exec` is a fair run (log 2, log 3); that `cmd` is none afterwards
(`Completed`) is the model's choice (log 29). That the result fits rests on IN_BUF_SIZE being at most
OUT_BUF_SIZE (log 6). -/
def Obligations.UnrecognisedSchemeFollowsTheLegacyBit : Prop :=
  ∀ (s : State) (u : Suci), s.ready → s.holdsSuci u → u.protectionScheme ≠ ascii "0" →
    u.protectionScheme ≠ ascii "1" → u.protectionScheme ≠ ascii "2" →
    ∃ t, exec .deconceal s = .next t ∧
      Completed s t
        (if s.ctrl.legacyNullFallback = false then failed .unsupportedScheme .none
         else if u.supiType = ascii "0" then
          succeeded (ascii "imsi-" ++ u.mcc ++ u.mnc ++ u.schemeOutput) .null false
         else succeeded u.schemeOutput .null true)

/-- The format failures of Profiles A and B (R152 to R154), each before the key slot is looked at (R170): odd or
non-hex scheme output, a Profile B key of unknown form or of no bytes, a scheme output that is too short. `exec`
is a fair run (log 2, log 3); that `cmd` is none afterwards (`Completed`) is the model's choice (log 29). -/
def Obligations.ProfileFormatFailures : Prop :=
  ∀ (s : State) (u : Suci), s.ready → s.holdsSuci u →
    (u.protectionScheme = ascii "1" → hexDecode u.schemeOutput = none →
      ∃ t, exec .deconceal s = .next t ∧ Completed s t (failed .hexDecodeFailed .profileA)) ∧
    (u.protectionScheme = ascii "2" → hexDecode u.schemeOutput = none →
      ∃ t, exec .deconceal s = .next t ∧ Completed s t (failed .hexDecodeFailed .profileB)) ∧
    (∀ d, u.protectionScheme = ascii "1" → hexDecode u.schemeOutput = some d → d.length < 32 + 8 →
      ∃ t, exec .deconceal s = .next t ∧ Completed s t (failed .inputTooShort .profileA)) ∧
    (u.protectionScheme = ascii "2" → hexDecode u.schemeOutput = some [] →
      ∃ t, exec .deconceal s = .next t ∧ Completed s t (failed .inputTooShort .profileB)) ∧
    (∀ b d, u.protectionScheme = ascii "2" → hexDecode u.schemeOutput = some (b :: d) →
      b ≠ 0x02 → b ≠ 0x03 → b ≠ 0x04 →
      ∃ t, exec .deconceal s = .next t ∧ Completed s t (failed .invalidPublicKeyEncoding .profileB)) ∧
    (∀ b d, u.protectionScheme = ascii "2" → hexDecode u.schemeOutput = some (b :: d) →
      ((b = 0x02 ∨ b = 0x03) ∧ (b :: d).length < 33 + 8) ∨ (b = 0x04 ∧ (b :: d).length < 65 + 8) →
      ∃ t, exec .deconceal s = .next t ∧ Completed s t (failed .inputTooShort .profileB))

/-- KeyNotLoaded (R170): a well-formed Profile A or Profile B input whose slot holds no committed key, whatever
the other slot holds, and before any point is recovered. `exec` is a fair run (log 2, log 3); that `cmd` is none
afterwards (`Completed`) is the model's choice (log 29). -/
def Obligations.MissingKeyFails : Prop :=
  ∀ (s : State) (u : Suci), s.ready → s.holdsSuci u →
    (∀ d, u.protectionScheme = ascii "1" → hexDecode u.schemeOutput = some d → 32 + 8 ≤ d.length →
      s.slotA.valid = false →
      ∃ t, exec .deconceal s = .next t ∧ Completed s t (failed .keyNotLoaded .profileA)) ∧
    (∀ b d, u.protectionScheme = ascii "2" → hexDecode u.schemeOutput = some (b :: d) →
      ((b = 0x02 ∨ b = 0x03) ∧ 33 + 8 ≤ (b :: d).length) ∨ (b = 0x04 ∧ 65 + 8 ≤ (b :: d).length) →
      s.slotB.valid = false →
      ∃ t, exec .deconceal s = .next t ∧ Completed s t (failed .keyNotLoaded .profileB))

/-- Profile A from the split to the result (R155, R173, R191, R192, R200 to R202, R210, R211, R215, R216), with
the answers of the engines: KeyAgreementFailed where X25519 fails, MacVerificationFailed where the MAC differs,
else the assembled result. `exec` is a fair run (log 2, log 3); that `cmd` is none afterwards (`Completed`) is
the model's choice (log 29). That the result fits rests on IN_BUF_SIZE being at most OUT_BUF_SIZE (log 6). The
values of the engines are PRESUMED: SHA-256, HMAC, AES-CTR and X25519 (log 9 to log 12); where X25519 fails is
open (log 13). -/
def Obligations.ProfileAResult : Prop :=
  ∀ (s : State) (u : Suci) (d : Bytes), s.ready → s.holdsSuci u → u.protectionScheme = ascii "1" →
    hexDecode u.schemeOutput = some d → 32 + 8 ≤ d.length → s.slotA.valid = true →
    let eph := slice d 0 32
    let ct := slice d 32 (d.length - 8)
    let mac := slice d (d.length - 8) d.length
    ∃ t, exec .deconceal s = .next t ∧
      Completed s t
        (match answerX25519 s.slotA.key.toList eph with
         | .fail => failed .keyAgreementFailed .profileA
         | .ok z =>
          let k := Sha256.digest (z ++ be32 1 ++ eph) ++ Sha256.digest (z ++ be32 2 ++ eph)
          let plain := Aes128.ctr (slice k 0 16) (slice k 16 32) ct
          if slice (Sha256.hmac (slice k 32 64) ct) 0 8 ≠ mac then failed .macVerificationFailed .profileA
          else if u.supiType = ascii "0" then
            let h := hexLower (swapNibbles plain)
            let digits := if h.getLast? = some 0x66 then h.dropLast else h
            succeeded (ascii "imsi-" ++ u.mcc ++ u.mnc ++ digits) .profileA false
          else succeeded (hexLower plain) .profileA true)

/-- Profile B from the split to the result (R155, R174, R177, R178, R180, R191, R192, R200 to R202, R210, R211,
R215, R216): the point, the compressed KDF key, the engine's shared secret; otherwise as for Profile A. `exec`
is a fair run (log 2, log 3); that `cmd` is none afterwards (`Completed`) is the model's choice (log 29). That
the result fits rests on IN_BUF_SIZE being at most OUT_BUF_SIZE (log 6). The values of the engines are PRESUMED:
SHA-256, HMAC, AES-CTR and P-256 (log 9 to log 11, log 14); where P-256 fails is open (log 15); the curve's
constants and encodings are log 16. -/
def Obligations.ProfileBResult : Prop :=
  ∀ (s : State) (u : Suci) (b : Byte) (d : Bytes) (n : Nat), s.ready → s.holdsSuci u →
    u.protectionScheme = ascii "2" → hexDecode u.schemeOutput = some (b :: d) →
    ((b = 0x02 ∨ b = 0x03) ∧ n = 33) ∨ (b = 0x04 ∧ n = 65) → n + 8 ≤ (b :: d).length →
    s.slotB.valid = true →
    let eph := slice (b :: d) 0 n
    let ct := slice (b :: d) n ((b :: d).length - 8)
    let mac := slice (b :: d) ((b :: d).length - 8) (b :: d).length
    ∃ t, exec .deconceal s = .next t ∧
      Completed s t
        (match
          (if n = 33 then P256.recover eph
           else if P256.onCurve (os2ip (slice eph 1 33)) (os2ip (slice eph 33 65)) then
            some (os2ip (slice eph 1 33), os2ip (slice eph 33 65))
           else none) with
         | none => failed .keyAgreementFailed .profileB
         | some (x, y) =>
          match answerP256SmulX s.slotB.key.toList x y with
          | .fail => failed .keyAgreementFailed .profileB
          | .ok z =>
            let key := BitVec.ofNat 8 (2 + y % 2) :: i2osp x 32
            let k := Sha256.digest (z ++ be32 1 ++ key) ++ Sha256.digest (z ++ be32 2 ++ key)
            let plain := Aes128.ctr (slice k 0 16) (slice k 16 32) ct
            if slice (Sha256.hmac (slice k 32 64) ct) 0 8 ≠ mac then failed .macVerificationFailed .profileB
            else if u.supiType = ascii "0" then
              let h := hexLower (swapNibbles plain)
              let digits := if h.getLast? = some 0x66 then h.dropLast else h
              succeeded (ascii "imsi-" ++ u.mcc ++ u.mnc ++ digits) .profileB false
            else succeeded (hexLower plain) .profileB true)

/-- A failed command leaves no output and no other trace than DONE, RESULT and KIND (R220, R221, R222, R260): OUT_LEN
is 0, every OUT_BUF word reads 0, the sequencer is idle with empty scratch and no request, and OVERRUN, CTRL, IN_LEN,
the key slots and every buffer byte are as before. (That `cmd` is none is the model's choice, log 29.) -/
def Obligations.FailureLeavesNoOutput : Prop :=
  ∀ (i : Instr) (s t : State), s.ready → exec i s = .next t → t.status.result ≠ .ok →
    t.outLen = 0 ∧ t.status.raw = false ∧ (∀ w, t.readRegister (.outBuf (4 * w)) = 0) ∧
    t.status.done = true ∧ t.status.overrun = s.status.overrun ∧
    t.stage = .idle ∧ t.cmd = none ∧ t.port = .idle ∧ t.scratch = Scratch.empty ∧
    t.params = s.params ∧ t.draw = s.draw ∧ t.orphans = s.orphans ∧ t.agenda = s.agenda ∧
    t.ctrl = s.ctrl ∧ t.inLen = s.inLen ∧ t.slotA = s.slotA ∧ t.slotB = s.slotB ∧
    ∀ a, t.byteAt a = s.byteAt a

/-- R217: no DECONCEAL result is longer than its input, so with IN_BUF_SIZE at most OUT_BUF_SIZE (log 6) an
input that CHECK admits never ends in LengthError. `exec` is a fair run (log 2, log 3). -/
def Obligations.DeconcealNeverOutgrowsItsInput : Prop :=
  ∀ s : State, s.ready → s.inLen.toNat ≤ s.params.inBufSize →
    ∃ t, exec .deconceal s = .next t ∧ t.outLen.toNat ≤ s.inLen.toNat ∧ t.status.result ≠ .lengthError

/-! ## The bus and the registers -/

/-- ID and VERSION are constants, at their offsets, in every state, and ignore writes (R33, R34). That such a
write leaves OVERRUN alone while BUSY is R300's word, taken over the last sentence of R76 (DEDUCED, log 30). -/
def Obligations.IdAndVersionAreConstant : Prop :=
  ∀ s : State,
    busRead (s.params.baseAddr + 0x000) 4 s = .next (s.respond (.read .okay 0x53554349)) ∧
    busRead (s.params.baseAddr + 0x004) 4 s = .next (s.respond (.read .okay 0x00000100)) ∧
    ∀ v : Word,
      busWrite (s.params.baseAddr + 0x000) 4 v s = .next (s.respond (.write .okay)) ∧
      busWrite (s.params.baseAddr + 0x004) 4 v s = .next (s.respond (.write .okay))

/-- A write of STATUS clears exactly DONE and OVERRUN where it holds a 1, busy or not (R38). -/
def Obligations.StatusWriteClearsDoneAndOverrun : Prop :=
  ∀ (s : State) (v : Word),
    busWrite (s.params.baseAddr + 0x010) 4 v s = .next
      { s with
        status :=
          { s.status with
            done := if v.getLsbD 1 then false else s.status.done
            overrun := if v.getLsbD 2 then false else s.status.overrun }
        response := some (.write .okay) }

/-- CTRL and IN_LEN (R35, R39): a read answers CTRL's two fields, or IN_LEN's sixteen bits, with zeros above
them, in every state; an idle block stores a write, which then reads back, and nothing else changes. -/
def Obligations.CtrlAndInLenReadBack : Prop :=
  (∀ s : State,
    (∃ c, busRead (s.params.baseAddr + 0x008) 4 s = .next (s.respond (.read .okay c)) ∧
      ∀ n, c.getLsbD n = if n = 0 then s.ctrl.irqEn else if n = 1 then s.ctrl.legacyNullFallback else false) ∧
    busRead (s.params.baseAddr + 0x014) 4 s = .next (s.respond (.read .okay (s.inLen.setWidth 32)))) ∧
  ∀ (s : State) (v : Word), s.busy = false →
    (∃ t, busWrite (s.params.baseAddr + 0x008) 4 v s = .next t ∧
      busRead (s.params.baseAddr + 0x008) 4 t = .next (t.respond (.read .okay (v &&& 0x00000003))) ∧
      t.ctrl.irqEn = v.getLsbD 0 ∧ t.ctrl.legacyNullFallback = v.getLsbD 1 ∧
      t = { s with ctrl := t.ctrl, response := some (.write .okay) }) ∧
    (∃ t, busWrite (s.params.baseAddr + 0x014) 4 v s = .next t ∧
      busRead (s.params.baseAddr + 0x014) 4 t = .next (t.respond (.read .okay (v &&& 0x0000FFFF))) ∧
      t.inLen = v.extractLsb' 0 16 ∧
      t = { s with inLen := t.inLen, response := some (.write .okay) })

/-- KEYCTL (R41): a read answers the two valid bits and 0 elsewhere, in every state; on an idle block COMMIT
sets a valid bit, CLEAR zeroes the slot and wins over COMMIT, and the other bits of a write do nothing. -/
def Obligations.KeyctlCommitsAndClears : Prop :=
  (∀ s : State, ∃ c, busRead (s.params.baseAddr + 0x01C) 4 s = .next (s.respond (.read .okay c)) ∧
    ∀ n, c.getLsbD n = if n = 0 then s.slotA.valid else if n = 1 then s.slotB.valid else false) ∧
  ∀ (s : State) (v : Word), s.busy = false →
    ∃ t, busWrite (s.params.baseAddr + 0x01C) 4 v s = .next t ∧
      (v.getLsbD 16 = true → t.slotA = { key := Vector.replicate 32 0, valid := false }) ∧
      (v.getLsbD 16 = false → v.getLsbD 8 = true → t.slotA = { s.slotA with valid := true }) ∧
      (v.getLsbD 16 = false → v.getLsbD 8 = false → t.slotA = s.slotA) ∧
      (v.getLsbD 17 = true → t.slotB = { key := Vector.replicate 32 0, valid := false }) ∧
      (v.getLsbD 17 = false → v.getLsbD 9 = true → t.slotB = { s.slotB with valid := true }) ∧
      (v.getLsbD 17 = false → v.getLsbD 9 = false → t.slotB = s.slotB) ∧
      t = { s with slotA := t.slotA, slotB := t.slotB, response := some (.write .okay) }

/-- A key word (R32, R42, R43, R72): it reads 0 in every state; an idle block stores a write's four bytes in lane
order, leaves the slot's other bytes and the other slot as before, and sets the slot's valid bit to 0. -/
def Obligations.KeyWordsStoreAndInvalidate : Prop :=
  (∀ (s : State) (w : Nat), w < 8 →
    busRead (s.params.baseAddr + 0x040 + 4 * w) 4 s = .next (s.respond (.read .okay 0)) ∧
    busRead (s.params.baseAddr + 0x060 + 4 * w) 4 s = .next (s.respond (.read .okay 0))) ∧
  ∀ (s : State) (v : Word) (w : Nat), s.busy = false → w < 8 →
    (∃ t, busWrite (s.params.baseAddr + 0x040 + 4 * w) 4 v s = .next t ∧ t.slotA.valid = false ∧
      (∀ (j : Nat) (hj : j < 32),
        t.slotA.key[j] = if j / 4 = w then v.extractLsb' (8 * (j % 4)) 8 else s.slotA.key[j]) ∧
      t = { s with slotA := t.slotA, response := some (.write .okay) } ∧
      busRead (s.params.baseAddr + 0x040 + 4 * w) 4 t = .next (t.respond (.read .okay 0))) ∧
    (∃ t, busWrite (s.params.baseAddr + 0x060 + 4 * w) 4 v s = .next t ∧ t.slotB.valid = false ∧
      (∀ (j : Nat) (hj : j < 32),
        t.slotB.key[j] = if j / 4 = w then v.extractLsb' (8 * (j % 4)) 8 else s.slotB.key[j]) ∧
      t = { s with slotB := t.slotB, response := some (.write .okay) } ∧
      busRead (s.params.baseAddr + 0x060 + 4 * w) 4 t = .next (t.respond (.read .okay 0)))

/-- IN_BUF (R45, R72): in every state, busy or not, a read answers the word's four bytes in lane order; an idle block
stores a write in lane order, reads it back, and leaves every other buffer byte and register alone. -/
def Obligations.InBufWordReadsBack : Prop :=
  (∀ (s : State) (w : Nat), s.params.wf → 4 * w < s.params.inBufSize →
    ∃ v, busRead (s.params.baseAddr + 0x400 + 4 * w) 4 s = .next (s.respond (.read .okay v)) ∧
      ∀ k, k < 4 → v.extractLsb' (8 * k) 8 = s.inByte (4 * w + k)) ∧
  ∀ (s : State) (v : Word) (w : Nat), s.params.wf → s.busy = false → 4 * w < s.params.inBufSize →
    ∃ t, busWrite (s.params.baseAddr + 0x400 + 4 * w) 4 v s = .next t ∧
      (∀ k, k < 4 → t.inByte (4 * w + k) = v.extractLsb' (8 * k) 8) ∧
      (∀ a, ¬ (0x400 + 4 * w ≤ a ∧ a < 0x400 + 4 * w + 4) → t.byteAt a = s.byteAt a) ∧
      t = { s with mem := t.mem, response := some (.write .okay) } ∧
      busRead (s.params.baseAddr + 0x400 + 4 * w) 4 t = .next (t.respond (.read .okay v))

/-- OUT_LEN and OUT_BUF (R40, R46): OUT_LEN reads its sixteen bits with zeros above them; each lane of an
OUT_BUF word reads the stored byte below OUT_LEN and 0 from OUT_LEN on; host writes of either are ignored, busy
or not. That such a write leaves OVERRUN alone while BUSY is R300's word, taken over the last sentence of R76
(DEDUCED, log 30). -/
def Obligations.OutBufReadsAreMasked : Prop :=
  (∀ s : State,
    busRead (s.params.baseAddr + 0x018) 4 s = .next (s.respond (.read .okay (s.outLen.setWidth 32))) ∧
    ∀ v, busWrite (s.params.baseAddr + 0x018) 4 v s = .next (s.respond (.write .okay))) ∧
  ∀ (s : State) (w : Nat), s.params.wf → 4 * w < s.params.outBufSize →
    (∃ v, busRead (s.params.baseAddr + 0x800 + 4 * w) 4 s = .next (s.respond (.read .okay v)) ∧
      ∀ k, k < 4 → v.extractLsb' (8 * k) 8 =
        if 4 * w + k < s.outLen.toNat then s.byteAt (0x800 + (4 * w + k)) else 0) ∧
    ∀ v, busWrite (s.params.baseAddr + 0x800 + 4 * w) 4 v s = .next (s.respond (.write .okay))

/-- Reserved offsets read 0 and ignore writes, busy or not (R47, R300). That such a write leaves OVERRUN alone
while BUSY is R300's word, taken over the last sentence of R76 (DEDUCED, log 30). -/
def Obligations.ReservedOffsetsReadZeroIgnoreWrites : Prop :=
  ∀ (s : State) (off : Nat), s.params.wf → off % 4 = 0 → off < 0x1000 →
    ((0x020 ≤ off ∧ off ≤ 0x03C) ∨ (0x080 ≤ off ∧ off ≤ 0x3FC) ∨ 0xC00 ≤ off ∨
      (0x400 + s.params.inBufSize ≤ off ∧ off ≤ 0x7FC) ∨
      (0x800 + s.params.outBufSize ≤ off ∧ off ≤ 0xBFC)) →
    busRead (s.params.baseAddr + off) 4 s = .next (s.respond (.read .okay 0)) ∧
    ∀ v, busWrite (s.params.baseAddr + off) 4 v s = .next (s.respond (.write .okay))

/-- R74: an access of another width or at an offset that is no multiple of 4 gets ERROR, data 0 for a read, and
changes no state: nothing but the response on the bus. -/
def Obligations.IllegalAccessesChangeNothing : Prop :=
  ∀ (s : State) (off width : Nat), off < 0x1000 → (width ≠ 4 ∨ off % 4 ≠ 0) →
    busRead (s.params.baseAddr + off) width s = .next (s.respond (.read .error 0)) ∧
    ∀ v, busWrite (s.params.baseAddr + off) width v s = .next (s.respond (.write .error))

/-- R300: while BUSY a write to CTRL, CMD, IN_LEN, KEYCTL, a key word or IN_BUF sets OVERRUN and changes nothing
else; a write to a read-only or reserved target changes nothing at all; STATUS acts normally. That such a target
leaves OVERRUN alone is R300's word, taken over the last sentence of R76 (DEDUCED, log 30). -/
def Obligations.WritesWhileBusyAreIgnored : Prop :=
  ∀ (s : State) (off : Nat) (v : Word), s.params.wf → s.busy = true → off < 0x1000 → off % 4 = 0 →
    busWrite (s.params.baseAddr + off) 4 v s = .next
      (if off = 0x008 ∨ off = 0x00C ∨ off = 0x014 ∨ off = 0x01C ∨ (0x040 ≤ off ∧ off < 0x080) ∨
          (0x400 ≤ off ∧ off < 0x400 + s.params.inBufSize) then
        { s with status := { s.status with overrun := true }, response := some (.write .okay) }
       else if off = 0x010 then
        { s with
          status :=
            { s.status with
              done := if v.getLsbD 1 then false else s.status.done
              overrun := if v.getLsbD 2 then false else s.status.overrun }
          response := some (.write .okay) }
       else { s with response := some (.write .okay) })

/-- Reads change no state but the response on the bus, at every offset, width and stage (R76). -/
def Obligations.ReadsHaveNoSideEffects : Prop :=
  ∀ (s : State) (addr width : Nat) (rest : List Event), s.agenda = .read addr width :: rest →
    windowOffset s.params addr ≠ none →
    ∃ r, step s = .next { s with agenda := rest, response := some r }

/-- No host read depends on a key byte, the scratch, the port or the stage beyond BUSY (R42, R43, R52): two
states that agree on everything else answer every read alike. -/
def Obligations.ReadsRevealNoKeyOrScratch : Prop :=
  ∀ (s t : State) (addr width : Nat), s.params = t.params → s.ctrl = t.ctrl → s.status = t.status →
    s.inLen = t.inLen → s.outLen = t.outLen → s.slotA.valid = t.slotA.valid →
    s.slotB.valid = t.slotB.valid → s.mem = t.mem → s.draw = t.draw → s.busy = t.busy →
    windowOffset s.params addr ≠ none →
    ∃ r, busRead addr width s = .next (s.respond r) ∧ busRead addr width t = .next (t.respond r)

/-- What a read of STATUS answers, field by field (R37), and the interrupt output (R48), which is bit 0 of a
read of CTRL and bit 1 of a read of STATUS; and the only numbers RESULT and KIND ever hold (R114, R261). -/
def Obligations.StatusWordAndIrq : Prop :=
  (∀ s : State, ∃ c w : Word,
    busRead (s.params.baseAddr + 0x008) 4 s = .next (s.respond (.read .okay c)) ∧
    busRead (s.params.baseAddr + 0x010) 4 s = .next (s.respond (.read .okay w)) ∧
    w.getLsbD 0 = s.busy ∧ w.getLsbD 1 = s.status.done ∧ w.getLsbD 2 = s.status.overrun ∧
    w.extractLsb' 3 5 = 0 ∧ w.extractLsb' 8 8 = resultCode s.status.result ∧
    w.extractLsb' 16 3 = kindCode s.status.kind ∧ w.getLsbD 19 = s.status.raw ∧ w.extractLsb' 20 12 = 0 ∧
    s.irq = (c.getLsbD 0 && w.getLsbD 1)) ∧
  State.reset.irq = false ∧
  resultCode .ok = 0x00 ∧ resultCode .invalidFormat = 0x01 ∧ resultCode .unknownPrefix = 0x02 ∧
  resultCode .unsupportedScheme = 0x03 ∧ resultCode .hexDecodeFailed = 0x04 ∧
  resultCode .invalidPublicKeyEncoding = 0x05 ∧ resultCode .inputTooShort = 0x06 ∧
  resultCode .keyAgreementFailed = 0x07 ∧ resultCode .macVerificationFailed = 0x08 ∧
  resultCode .keyNotLoaded = 0x10 ∧ resultCode .lengthError = 0x11 ∧ resultCode .illegalCommand = 0x12 ∧
  kindCode .none = 0 ∧ kindCode .passthrough = 1 ∧ kindCode .null = 2 ∧ kindCode .profileA = 3 ∧
  kindCode .profileB = 4 ∧ kindCode .aux = 5 ∧
  (∀ c, (resultCode c).toNat ≤ 0x08 ∨ (0x10 ≤ (resultCode c).toNat ∧ (resultCode c).toNat ≤ 0x12)) ∧
  ∀ k, (kindCode k).toNat ≤ 5

/-- CMD reads 0 in every state (R36). Accept (R150): a CMD write to an idle block raises BUSY in stage CHECK,
clears DONE, RESULT, KIND, RAW and OUT_LEN, leaves OVERRUN and every operand alone; the command has not
completed yet (R306). -/
def Obligations.CommandWriteIsAccepted : Prop :=
  (∀ s : State, busRead (s.params.baseAddr + 0x00C) 4 s = .next (s.respond (.read .okay 0))) ∧
  ∀ (s : State) (v : Word), s.busy = false →
    ∃ t, busWrite (s.params.baseAddr + 0x00C) 4 v s = .next t ∧
      t.busy = true ∧ t.stage = .check ∧ t.cmd = some (decodeWord v) ∧
      t.status = { done := false, overrun := s.status.overrun, result := .ok, kind := .none, raw := false } ∧
      t.outLen = 0 ∧ t.params = s.params ∧ t.ctrl = s.ctrl ∧ t.inLen = s.inLen ∧ t.slotA = s.slotA ∧
      t.slotB = s.slotB ∧ t.mem = s.mem ∧ t.draw = s.draw ∧ t.orphans = s.orphans ∧ t.agenda = s.agenda ∧
      t.irq = false ∧ t.response = some (.write .okay)

/-! ## Reset -/

/-- The reset values of the registers as the host reads them, the slots, the sequencer and irq (R53, R290), and
OUT_BUF reading 0. Nothing is said of IN_BUF, which the spec leaves unspecified. -/
def Obligations.ResetValues : Prop :=
  let reads : Nat → Word → Prop := fun off v =>
    busRead (State.reset.params.baseAddr + off) 4 State.reset = .next (State.reset.respond (.read .okay v))
  reads 0x000 0x53554349 ∧ reads 0x004 0x00000100 ∧ reads 0x008 0 ∧ reads 0x00C 0 ∧ reads 0x010 0 ∧
  reads 0x014 0 ∧ reads 0x018 0 ∧ reads 0x01C 0 ∧ State.reset.slotA.key = Vector.replicate 32 0 ∧
  State.reset.slotB.key = Vector.replicate 32 0 ∧ State.reset.stage = .idle ∧
  State.reset.scratch = Scratch.empty ∧ State.reset.port = .idle ∧ State.reset.irq = false ∧
  ∀ w, State.reset.readRegister (.outBuf (4 * w)) = 0

/-- The reset input, an event of the agenda (log 1), at any stage of any command (R290, R291; log 20, log 25, log 29):
the next state has every register at its reset value and an idle sequencer with no request; a request that was
outstanding can only be answered late, and then the answer changes no register, buffer or sequencer state. -/
def Obligations.ResetAbortsAndRestores : Prop :=
  (∀ (s : State) (rest : List Event), s.agenda = .reset :: rest →
    ∃ t, step s = .next t ∧
      t.ctrl = State.reset.ctrl ∧ t.status = State.reset.status ∧ t.inLen = 0 ∧ t.outLen = 0 ∧
      t.slotA = { key := Vector.replicate 32 0, valid := false } ∧
      t.slotB = { key := Vector.replicate 32 0, valid := false } ∧
      t.stage = .idle ∧ t.cmd = none ∧ t.scratch = Scratch.empty ∧ t.port = .idle ∧ t.irq = false ∧
      t.params = s.params ∧ (∀ w, t.readRegister (.outBuf (4 * w)) = 0) ∧
      (∀ r, s.port = .requested r → t.orphans = s.orphans ++ [r])) ∧
  (∀ (s : State) (rest : List Event), s.agenda = .lateAnswer :: rest →
    step s = .next { s with agenda := rest, orphans := s.orphans.tail })

/-! ## Invariants that every step keeps -/

/-- The buffers' memory keeps its canonical form and lists only bytes of IN_BUF and OUT_BUF, OUT_LEN stays
within OUT_BUF, and the parameters never change (R9, R40, R45, R46). It assumes that IN_BUF_SIZE is at most
OUT_BUF_SIZE (log 6). -/
def Obligations.MemoryInvariantIsKept : Prop :=
  ∀ s s' : State, s.params.wf → s.MemoryInv → step s = .next s' → s'.MemoryInv ∧ s'.params = s.params

/-- While BUSY no result is visible: DONE, RESULT, KIND, RAW and OUT_LEN are 0 (R37, R40, R301). -/
def Obligations.ResultsStayHiddenWhileBusy : Prop :=
  ∀ s s' : State, s.HiddenWhileBusy → step s = .next s' → s'.HiddenWhileBusy

/-- The sequencer keeps a consistent combination of stage, command, port and scratch (R50, R51, R151), and
scratch is empty whenever it is idle (R221). The clause of `Stage.admits` that an idle sequencer holds no
command is the model's choice (log 29), which these rules do not state. -/
def Obligations.SequencerInvariantIsKept : Prop :=
  ∀ s s' : State, s.SequencerInv → step s = .next s' → s'.SequencerInv

/-- MAC-then-decrypt (R203): every step keeps `MacVerified`, and after every step an AES128_CTR request is on the
port only if the MAC has compared equal. -/
def Obligations.MacIsVerifiedBeforeDecryption : Prop :=
  ∀ s s' : State, s.SequencerInv → s.MacVerified → step s = .next s' →
    s'.MacVerified ∧
    ∀ k icb c, s'.port = .requested (.aes128Ctr k icb c) →
      macDiff s'.scratch.expectedMac s'.scratch.mac = 0

/-- The four invariants hold right after reset. That the parameters are legal at reset rests on R9, on the
BASE_ADDR of 0 that the model chooses (log 5) and on IN_BUF_SIZE being at most OUT_BUF_SIZE (log 6); that no
command is held is the model's choice (log 29). -/
def Obligations.InvariantsHoldAtReset : Prop :=
  State.reset.params.wf ∧ State.reset.MemoryInv ∧ State.reset.HiddenWhileBusy ∧ State.reset.SequencerInv ∧
  State.reset.MacVerified

/-- From a consistent sequencer no step refuses, and the only fault is a host access outside the block's window:
the block has no traps (R260, R271) and no address outside its window (R71). R71 names no fault: that such an
access is one is the model's choice (log 17), as is the fault for the sequencer states that `SequencerInv` rules
out (log 18). -/
def Obligations.OnlyOutsideAccessesFault : Prop :=
  ∀ s : State, s.SequencerInv →
    (∀ r, step s ≠ .refused r) ∧
    ∀ f, step s = .fault f →
      f = .outsideWindow ∧
      ∃ rest addr width, windowOffset s.params addr = none ∧
        (s.agenda = .read addr width :: rest ∨ ∃ v, s.agenda = .write addr width v :: rest)

/-! ## Rules about the whole machine -/

/-- R44: a key slot or its valid bit changes only by a KEYCTL or key-word write to an idle block, by ZEROIZE, or
by reset. The events are those of the model's agenda (log 1, log 3). -/
def Obligations.KeySlotsChangeOnlyByTheirRules : Prop :=
  ∀ s s' : State, step s = .next s' → (s'.slotA ≠ s.slotA ∨ s'.slotB ≠ s.slotB) →
    (∃ rest, s.agenda = .reset :: rest) ∨
    (∃ v rest, s.agenda = .run v :: rest ∧ s.busy = false ∧ decodeWord v = .zeroize) ∨
    (s.stage = .commit ∧ s.cmd = some .zeroize ∧ (s.agenda = [] ∨ ∃ rest, s.agenda = .sequencerMove :: rest)) ∨
    (∃ addr v rest off, s.agenda = .write addr 4 v :: rest ∧ s.busy = false ∧
      windowOffset s.params addr = some off ∧ (off = 0x01C ∨ (0x040 ≤ off ∧ off < 0x080)))

/-- R45: a byte of IN_BUF changes only by a host write of its own word to an idle block, by ZEROIZE, or by
reset. The events are those of the model's agenda (log 1, log 3). That a reset draws the bytes anew is log 7. -/
def Obligations.InBufChangesOnlyByItsRules : Prop :=
  ∀ (s s' : State) (i : Nat), s.params.wf → i < s.params.inBufSize → step s = .next s' →
    s'.inByte i ≠ s.inByte i →
    (∃ rest, s.agenda = .reset :: rest) ∨
    (∃ v rest, s.agenda = .run v :: rest ∧ s.busy = false ∧ decodeWord v = .zeroize) ∨
    (s.stage = .commit ∧ s.cmd = some .zeroize ∧ (s.agenda = [] ∨ ∃ rest, s.agenda = .sequencerMove :: rest)) ∨
    (∃ v rest, s.busy = false ∧ s.agenda = .write (s.params.baseAddr + 0x400 + 4 * (i / 4)) 4 v :: rest)

/-- What a running command reads cannot change while it runs (R84, R300): no event but reset changes the inputs
of a block that stays busy. The events are those of the model's agenda (log 1, log 3). -/
def Obligations.InputsAreFrozenWhileBusy : Prop :=
  ∀ s s' : State, s.busy = true → (∀ rest, s.agenda ≠ .reset :: rest) → step s = .next s' →
    s'.busy = true → s'.inputs = s.inputs

/-- An engine request leaves the block only from the four engine stages, so every failure of PARSE and DISPATCH
comes before any request (R140, R151); no host access, `run`, late answer or reset leaves one on a free port.
The events are those of the model's agenda (log 1, log 3). -/
def Obligations.RequestsComeFromEngineStages : Prop :=
  ∀ (s s' : State) (r : Request), step s = .next s' → s.port = .idle → s'.port = .requested r →
    (s.agenda = [] ∨ ∃ rest, s.agenda = .sequencerMove :: rest) ∧
    s'.stage = s.stage ∧
    match r with
    | .x25519 k _ => s.stage = .keyagree ∧ s.slotA.valid = true ∧ k = s.slotA.key.toList
    | .p256SmulX d x y => s.stage = .keyagree ∧ s.slotB.valid = true ∧ d = s.slotB.key.toList ∧
        s'.scratch.point = some (x, y)
    | .sha256 _ => s.stage = .kdf
    | .hmacSha256 _ _ => s.stage = .mac
    | .aes128Ctr _ _ _ => s.stage = .decrypt

/-! ## Small steps and whole commands -/

/-- From the accept of a CMD write, with nothing more coming from outside, the block's own moves complete the
command within 25 of the model's moves: BUSY is 0, DONE is 1, and the state is exactly that of the command's
meaning (R151, R220). The number is the model's, not the spec's: it counts the moves that log 21 cuts the stages into,
while LATENCY is open (R9, R306). That an empty agenda means the block's own moves, each engine answering at once, is
the model's choice too (log 2). -/
def Obligations.OwnMovesCompleteTheCommand : Prop :=
  ∀ (s : State) (v : Word), s.busy = false →
    s.agenda = [.write (s.params.baseAddr + 0x00C) 4 v] →
    ∃ u, Sys2Proof.core.run 26 s = .next u ∧ exec (decodeWord v) (s.setAgenda []) = .next u ∧
      u.busy = false ∧ u.status.done = true

/-- Whatever order the sequencer's moves, the engines' answers and host reads come in, a command that has
completed has completed with the same state, but for the last response on the bus (R150, R264). That the agenda
holds the order of the events is the model's choice (log 1). -/
def Obligations.EveryScheduleGivesTheSameResult : Prop :=
  ∀ (s t : State) (v : Word) (es : List Event), s.busy = false →
    s.agenda = .write (s.params.baseAddr + 0x00C) 4 v :: es → (∀ e ∈ es, quietEvent s.params e) →
    Sys2Proof.core.run (es.length + 1) s = .next t → t.busy = false →
    ∃ u, exec (decodeWord v) (s.setAgenda []) = .next u ∧ u = { t with response := u.response }

/-! ## Byte strings and the curve -/

/-- `swap_nibbles` exchanges the two nibbles of every byte (R12), and is its own inverse (R212). -/
def Obligations.SwapNibblesIsItsOwnInverse : Prop :=
  (∀ b : Bytes, swapNibbles (swapNibbles b) = b) ∧
  ∀ b : Bytes, (swapNibbles b).length = b.length ∧
    ∀ i, i < b.length →
      ((swapNibbles b).getD i 0).extractLsb' 0 4 = (b.getD i 0).extractLsb' 4 4 ∧
      ((swapNibbles b).getD i 0).extractLsb' 4 4 = (b.getD i 0).extractLsb' 0 4

/-- `hex_lower` writes two characters of 0-9, a-f for each byte, high nibble first (R12, R112); `hex_decode`
inverts it, takes the digits of either case at their values, two to a byte, and fails exactly on an odd length
or a character outside 0-9, a-f, A-F (R152). -/
def Obligations.HexDecodeInvertsHexLower : Prop :=
  let digit : Nat → Byte := fun n => BitVec.ofNat 8 (if n < 10 then 0x30 + n else 0x61 + (n - 10))
  let val : Byte → Nat := fun c =>
    if c ≤ 0x39 then c.toNat - 0x30 else if c ≤ 0x46 then 10 + (c.toNat - 0x41) else 10 + (c.toNat - 0x61)
  (∀ b : Bytes, hexDecode (hexLower b) = some b) ∧
  (∀ b : Bytes, (hexLower b).length = 2 * b.length ∧
    ∀ i, i < b.length →
      (hexLower b).getD (2 * i) 0 = digit ((b.getD i 0).toNat / 16) ∧
      (hexLower b).getD (2 * i + 1) 0 = digit ((b.getD i 0).toNat % 16)) ∧
  (∀ t b : Bytes, hexDecode t = some b → t.length = 2 * b.length ∧
    ∀ i, i < b.length → (b.getD i 0).toNat = 16 * val (t.getD (2 * i) 0) + val (t.getD (2 * i + 1) 0)) ∧
  ∀ t : Bytes, hexDecode t = none ↔
    t.length % 2 ≠ 0 ∨
      ∃ c ∈ t, ¬ ((0x30 ≤ c ∧ c ≤ 0x39) ∨ (0x61 ≤ c ∧ c ≤ 0x66) ∨ (0x41 ≤ c ∧ c ≤ 0x46))

/-- Splitting loses nothing (R130): there is one field more than hyphens, no field holds a hyphen, and the fields
joined by hyphens are the input. -/
def Obligations.FieldSplitIsExact : Prop :=
  ∀ b : Bytes,
    (splitFields b).length = b.count 0x2D + 1 ∧ (∀ f ∈ splitFields b, (0x2D : Byte) ∉ f) ∧
    List.intercalate [0x2D] (splitFields b) = b

/-- The MAC comparison accepts exactly equal MACs of eight bytes (R201). -/
def Obligations.MacComparisonIsExact : Prop :=
  ∀ expected mac : Bytes, expected.length = 8 → mac.length = 8 →
    (macDiff expected mac = 0 ↔ expected = mac)

/-- The derived buffer is 64 bytes and the three keys are consecutive parts of it with no gap and no overlap
(R190, R192, R193). SHA-256 is PRESUMED (log 9). -/
def Obligations.DerivedKeysPartitionTheBuffer : Prop :=
  Config.kdfRounds = 2 ∧
  ∀ (c : Scratch) (z key : Bytes), c.derived = derivedBuffer z key →
    (splitKeys c).encKey ++ (splitKeys c).icb ++ (splitKeys c).macKey = derivedBuffer z key ∧
    (splitKeys c).encKey.length = 16 ∧ (splitKeys c).icb.length = 16 ∧ (splitKeys c).macKey.length = 32

/-- OnCurve written out (R172), with the curve's p and b as the numbers of R171 (general knowledge of the spec's,
log 16). Recovery fails exactly where x is not reduced, where the candidate root of R175 does not square to the right
side, or where the root is 0 and the odd one is wanted (R174 to R176); a recovered point is on the curve and has the x
and the parity of its key, and recompressing it gives the key back (R174, R179). -/
def Obligations.RecoveredPointMatchesItsKey : Prop :=
  P256.p = 0xffffffff00000001000000000000000000000000ffffffffffffffffffffffff ∧
  (∀ x : Nat, (P256.curveRhs x : Int) =
    ((x : Int) * x * x - 3 * x + 0x5ac635d8aa3a93e7b3ebbd55769886bc651d06b0cc53b0f63bce3c3e27d2604b) %
      (P256.p : Int)) ∧
  (∀ x y : Nat, P256.onCurve x y = true ↔
    x < P256.p ∧ y < P256.p ∧
      ((y : Int) * y) % (P256.p : Int) =
        ((x : Int) * x * x - 3 * x + 0x5ac635d8aa3a93e7b3ebbd55769886bc651d06b0cc53b0f63bce3c3e27d2604b) %
          (P256.p : Int)) ∧
  (∀ key : Bytes, key.length = 33 → (key.headD 0 = 0x02 ∨ key.headD 0 = 0x03) →
    let x := os2ip (key.drop 1)
    let t := P256.curveRhs x ^ ((P256.p + 1) / 4) % P256.p
    (P256.recover key = none ↔
      P256.p ≤ x ∨ t * t % P256.p ≠ P256.curveRhs x ∨ (t = 0 ∧ key.headD 0 = 0x03))) ∧
  ∀ (key : Bytes) (x y : Nat), key.length = 33 → (key.headD 0 = 0x02 ∨ key.headD 0 = 0x03) →
    P256.recover key = some (x, y) →
    P256.onCurve x y = true ∧ x = os2ip (key.drop 1) ∧ y % 2 = (key.headD 0).toNat - 2 ∧
    P256.compressPoint (x, y) = key

/-- The two encodings of one point agree on everything: an uncompressed encoding of a recovered point splits
into that point, and key agreement gives the same shared secret and KDF key (R178, R179). The curve's constants
and encodings are log 16. -/
def Obligations.BothPointFormsAgree : Prop :=
  ∀ (c : Inputs) (key : Bytes) (pt : Nat × Nat), key.length = 33 →
    (key.headD 0 = 0x02 ∨ key.headD 0 = 0x03) → P256.recover key = some pt →
    P256.splitPoint (P256.uncompressPoint pt) = some pt ∧
    agree c .b (some .uncompressed) (P256.uncompressPoint pt) = agree c .b (some .compressed) key

/-- Decompress, copy the result back, compress: the first input comes back (the round trip of R179 run on the
block). `exec` is a fair run (log 2, log 3); that `cmd` is none afterwards (`Completed`) is the model's choice
(log 29). The curve's constants and encodings are log 16. -/
def Obligations.DecompressThenCompressRoundTrip : Prop :=
  ∀ s t s2 : State, s.ready → s.inLen.toNat ≤ s.params.inBufSize → exec .p256Decompress s = .next t →
    t.status.result = .ok → s2.ready → s2.params = s.params → s2.inLen.toNat ≤ s2.params.inBufSize →
    s2.input = t.output →
    ∃ t2, exec .p256Compress s2 = .next t2 ∧ Completed s2 t2 (succeeded s.input .aux false)
end

