-- ==== Sys2Proof/Laws/Memory.lean ====
section
/-! SUPPORT. The laws of the buffer memory: read after write, nothing else changes, the canonical form stays. -/

namespace Sys2Proof.Machine

theorem lookup_filter_pos {m : Memory} {p : Nat → Bool} {a : Nat} (h : p a = true) :
    (m.filter (fun c => p c.1)).lookup a = m.lookup a := by
  induction m with
  | nil => rfl
  | cons c t ih =>
    obtain ⟨x, b⟩ := c
    by_cases hx : a = x
    · subst hx
      simp [List.filter, h, List.lookup]
    · by_cases hp : p x = true
      · simp [List.filter, hp, List.lookup, beq_false_of_ne hx, ih]
      · simp [List.filter, hp, List.lookup, beq_false_of_ne hx, ih]

theorem lookup_filter_neg {m : Memory} {p : Nat → Bool} {a : Nat} (h : p a = false) :
    (m.filter (fun c => p c.1)).lookup a = none := by
  induction m with
  | nil => rfl
  | cons c t ih =>
    obtain ⟨x, b⟩ := c
    by_cases hp : p x = true
    · have hx : a ≠ x := fun e => by simp [e, hp] at h
      simp [List.filter, hp, List.lookup, beq_false_of_ne hx, ih]
    · simp [List.filter, hp, ih]

theorem lookup_cellsFrom (base : Nat) (bytes : Bytes) (a : Nat) :
    (cellsFrom base bytes).lookup a =
      if base ≤ a ∧ a < base + bytes.length then bytes[a - base]? else none := by
  induction bytes generalizing base with
  | nil => simp [cellsFrom]
  | cons b t ih =>
    by_cases h : a = base
    · subst h
      simp [cellsFrom]
    · simp only [cellsFrom, List.lookup, beq_false_of_ne h, ih, List.length_cons]
      by_cases h2 : base + 1 ≤ a ∧ a < base + 1 + t.length
      · have e : a - base = (a - (base + 1)) + 1 := by omega
        have h3 : base ≤ a ∧ a < base + (t.length + 1) := by omega
        rw [if_pos h2, if_pos h3, e, List.getElem?_cons_succ]
      · have h3 : ¬ (base ≤ a ∧ a < base + (t.length + 1)) := by omega
        rw [if_neg h2, if_neg h3]

/-- Reading after a write: the written byte inside the written range, the old one outside it. -/
theorem Memory.read?_write (m : Memory) (base : Nat) (bytes : Bytes) (a : Nat) :
    (m.write base bytes).read? a =
      if base ≤ a ∧ a < base + bytes.length then bytes[a - base]? else m.read? a := by
  unfold Memory.write Memory.read?
  rw [List.lookup_append, List.lookup_append, lookup_cellsFrom]
  by_cases h1 : a < base
  · rw [lookup_filter_pos (p := fun x => decide (x < base)) (by simpa using h1),
      lookup_filter_neg (p := fun x => decide (base + bytes.length ≤ x)) (by simp; omega)]
    simp [show ¬ (base ≤ a) by omega]
  · rw [lookup_filter_neg (p := fun x => decide (x < base)) (by simpa using h1)]
    by_cases h2 : a < base + bytes.length
    · rw [lookup_filter_neg (p := fun x => decide (base + bytes.length ≤ x)) (by simp; omega)]
      simp [show base ≤ a by omega, h2]
    · rw [lookup_filter_pos (p := fun x => decide (base + bytes.length ≤ x)) (by simp; omega)]
      simp [h2]

/-- A write leaves every offset outside its range alone. -/
theorem Memory.read?_write_outside (m : Memory) {base : Nat} {bytes : Bytes} {a : Nat}
    (h : ¬ (base ≤ a ∧ a < base + bytes.length)) : (m.write base bytes).read? a = m.read? a := by
  rw [Memory.read?_write, if_neg h]

/-- A write stores its bytes. -/
theorem Memory.read?_write_inside (m : Memory) {base : Nat} {bytes : Bytes} {i : Nat}
    (h : i < bytes.length) : (m.write base bytes).read? (base + i) = some bytes[i] := by
  rw [Memory.read?_write, if_pos (by omega)]
  simp [h]

theorem mem_cellsFrom {base : Nat} {bytes : Bytes} {c : Host.Cell} (h : c ∈ cellsFrom base bytes) :
    base ≤ c.1 ∧ c.1 < base + bytes.length := by
  induction bytes generalizing base with
  | nil => simp [cellsFrom] at h
  | cons b t ih =>
    simp only [cellsFrom, List.mem_cons] at h
    rcases h with rfl | h
    · simp
    · have := ih h
      simp only [List.length_cons]
      omega

theorem cellsFrom_wf (base : Nat) (bytes : Bytes) : Memory.wf (cellsFrom base bytes) := by
  induction bytes generalizing base with
  | nil => exact List.Pairwise.nil
  | cons b t ih =>
    refine List.Pairwise.cons (fun c hc => ?_) (ih (base + 1))
    have := (mem_cellsFrom hc).1
    simp only
    omega

/-- A cell of a written memory is an old one or lies in the written range. -/
theorem mem_write {m : Memory} {base : Nat} {bytes : Bytes} {c : Host.Cell} (h : c ∈ m.write base bytes) :
    c ∈ m ∨ (base ≤ c.1 ∧ c.1 < base + bytes.length) := by
  unfold Memory.write at h
  rw [List.mem_append, List.mem_append, List.mem_filter, List.mem_filter] at h
  rcases h with (h | h) | h
  · exact .inl h.1
  · exact .inr (mem_cellsFrom h)
  · exact .inl h.1

/-- A write keeps the canonical form. -/
theorem Memory.write_wf {m : Memory} (base : Nat) (bytes : Bytes) (h : m.wf) : (m.write base bytes).wf := by
  unfold Memory.write Memory.wf
  rw [List.pairwise_append, List.pairwise_append]
  refine ⟨⟨h.filter _, cellsFrom_wf base bytes, fun c hc d hd => ?_⟩, h.filter _, fun c hc d hd => ?_⟩
  · have h1 := (List.mem_filter.mp hc).2
    have h2 := (mem_cellsFrom hd).1
    simp only [decide_eq_true_eq] at h1
    omega
  · have h2 := (List.mem_filter.mp hd).2
    simp only [decide_eq_true_eq] at h2
    rcases List.mem_append.mp hc with hc | hc
    · have h1 := (List.mem_filter.mp hc).2
      simp only [decide_eq_true_eq] at h1
      omega
    · have h1 := (mem_cellsFrom hc).2
      omega

/-- The memory that lists nothing has the canonical form. -/
theorem Memory.nil_wf : Memory.wf [] := List.Pairwise.nil

end Sys2Proof.Machine
end

