-- ==== Sys2Proof/Laws/Bytes.lean ====
section
/-! SUPPORT. Lengths and bounds of the byte-string functions and of the engines' values. -/

namespace Sys2Proof.Machine

@[simp] theorem i2osp_length (x k : Nat) : (i2osp x k).length = k := by
  induction k generalizing x with
  | zero => rfl
  | succ k ih => simp [i2osp, ih]

@[simp] theorem be32_length (c : Nat) : (be32 c).length = 4 := i2osp_length c 4

theorem slice_length (b : Bytes) (i j : Nat) : (slice b i j).length = min (j - i) (b.length - i) := by
  simp [slice]

@[simp] theorem swapNibbles_length (b : Bytes) : (swapNibbles b).length = b.length := by simp [swapNibbles]

@[simp] theorem hexLower_length (b : Bytes) : (hexLower b).length = 2 * b.length := by
  induction b with
  | nil => rfl
  | cons x t ih =>
    simp only [hexLower, List.flatMap_cons, List.length_append, List.length_cons, List.length_nil] at *
    omega

theorem stripFiller_length_le (h : Bytes) : (stripFiller h).length ≤ h.length := by
  unfold stripFiller
  split
  · simp
  · exact le_rfl

theorem tbcdDigits_length_le (b : Bytes) : (tbcdDigits b).length ≤ 2 * b.length := by
  have := stripFiller_length_le (hexLower (swapNibbles b))
  simpa [tbcdDigits] using this

/-- A hex pair decodes to its byte before the rest's bytes (R152). -/
theorem hexDecode_pair {t u : Byte} {rest d : Bytes} (h : hexDecode (t :: u :: rest) = some d) :
    ∃ hi lo bs, hexVal t = some hi ∧ hexVal u = some lo ∧ hexDecode rest = some bs ∧
      d = (16 * hi + lo) :: bs := by
  rw [hexDecode] at h
  split at h
  · rename_i hi lo bs e1 e2 e3
    exact ⟨hi, lo, bs, e1, e2, e3, by simpa using h.symm⟩
  · simp at h

/-- A decoded hex string has half the length. -/
theorem hexDecode_length : ∀ {t d : Bytes}, hexDecode t = some d → t.length = 2 * d.length
  | [], d, h => by
    simp only [hexDecode, Option.some.injEq] at h
    simp [← h]
  | [_], d, h => by simp [hexDecode] at h
  | _ :: _ :: rest, d, h => by
    obtain ⟨hi, lo, bs, -, -, e, rfl⟩ := hexDecode_pair h
    have := hexDecode_length e
    simp only [List.length_cons]
    omega

theorem chainBytes_length (s : Sha256.Chain) : (Sha256.chainBytes s).length = 32 := by
  simp [Sha256.chainBytes]

/-- R17: a digest is 32 bytes. -/
@[simp] theorem digest_length (m : Bytes) : (Sha256.digest m).length = 32 := by
  unfold Sha256.digest
  exact chainBytes_length _

/-- R18: a tag is 32 bytes. -/
@[simp] theorem hmac_length (k m : Bytes) : (Sha256.hmac k m).length = 32 := by
  unfold Sha256.hmac
  exact digest_length _

/-- R19: the result has the length of the input. -/
@[simp] theorem ctr_length (k icb c : Bytes) : (Aes128.ctr k icb c).length = c.length := by
  unfold Aes128.ctr
  simp

/-- R15: the value is 32 bytes. -/
@[simp] theorem x25519_value_length (k u : Bytes) : (X25519.value k u).length = 32 := by
  unfold X25519.value
  split <;> simp

/-- R16: a value of the P-256 engine is 32 bytes. -/
theorem answerP256SmulX_length {d : Bytes} {x y : Nat} {z : Bytes} (h : answerP256SmulX d x y = .ok z) :
    z.length = 32 := by
  unfold answerP256SmulX at h
  split at h
  · simp at h
  · split at h
    · simp at h
    · split at h <;> · simp only [Answer.ok.injEq] at h; subst h; simp

end Sys2Proof.Machine
end

