-- ==== Sys2Proof/Laws/State.lean ====
section
/-! SUPPORT. One lemma per field per named update of the state, so that no proof unfolds a record update. -/

namespace Sys2Proof.Machine.State

variable (s : State)

@[simp] theorem gotoStage_params (st : Stage) : (s.gotoStage st).params = s.params := rfl
@[simp] theorem gotoStage_ctrl (st : Stage) : (s.gotoStage st).ctrl = s.ctrl := rfl
@[simp] theorem gotoStage_status (st : Stage) : (s.gotoStage st).status = s.status := rfl
@[simp] theorem gotoStage_inLen (st : Stage) : (s.gotoStage st).inLen = s.inLen := rfl
@[simp] theorem gotoStage_outLen (st : Stage) : (s.gotoStage st).outLen = s.outLen := rfl
@[simp] theorem gotoStage_slotA (st : Stage) : (s.gotoStage st).slotA = s.slotA := rfl
@[simp] theorem gotoStage_slotB (st : Stage) : (s.gotoStage st).slotB = s.slotB := rfl
@[simp] theorem gotoStage_mem (st : Stage) : (s.gotoStage st).mem = s.mem := rfl
@[simp] theorem gotoStage_stage (st : Stage) : (s.gotoStage st).stage = st := rfl
@[simp] theorem gotoStage_cmd (st : Stage) : (s.gotoStage st).cmd = s.cmd := rfl
@[simp] theorem gotoStage_scratch (st : Stage) : (s.gotoStage st).scratch = s.scratch := rfl
@[simp] theorem gotoStage_port (st : Stage) : (s.gotoStage st).port = s.port := rfl
@[simp] theorem gotoStage_draw (st : Stage) : (s.gotoStage st).draw = s.draw := rfl
@[simp] theorem gotoStage_orphans (st : Stage) : (s.gotoStage st).orphans = s.orphans := rfl
@[simp] theorem gotoStage_agenda (st : Stage) : (s.gotoStage st).agenda = s.agenda := rfl
@[simp] theorem gotoStage_response (st : Stage) : (s.gotoStage st).response = s.response := rfl

@[simp] theorem setScratch_params (c : Scratch) : (s.setScratch c).params = s.params := rfl
@[simp] theorem setScratch_ctrl (c : Scratch) : (s.setScratch c).ctrl = s.ctrl := rfl
@[simp] theorem setScratch_status (c : Scratch) : (s.setScratch c).status = s.status := rfl
@[simp] theorem setScratch_inLen (c : Scratch) : (s.setScratch c).inLen = s.inLen := rfl
@[simp] theorem setScratch_outLen (c : Scratch) : (s.setScratch c).outLen = s.outLen := rfl
@[simp] theorem setScratch_slotA (c : Scratch) : (s.setScratch c).slotA = s.slotA := rfl
@[simp] theorem setScratch_slotB (c : Scratch) : (s.setScratch c).slotB = s.slotB := rfl
@[simp] theorem setScratch_mem (c : Scratch) : (s.setScratch c).mem = s.mem := rfl
@[simp] theorem setScratch_stage (c : Scratch) : (s.setScratch c).stage = s.stage := rfl
@[simp] theorem setScratch_cmd (c : Scratch) : (s.setScratch c).cmd = s.cmd := rfl
@[simp] theorem setScratch_scratch (c : Scratch) : (s.setScratch c).scratch = c := rfl
@[simp] theorem setScratch_port (c : Scratch) : (s.setScratch c).port = s.port := rfl
@[simp] theorem setScratch_draw (c : Scratch) : (s.setScratch c).draw = s.draw := rfl
@[simp] theorem setScratch_orphans (c : Scratch) : (s.setScratch c).orphans = s.orphans := rfl
@[simp] theorem setScratch_agenda (c : Scratch) : (s.setScratch c).agenda = s.agenda := rfl
@[simp] theorem setScratch_response (c : Scratch) : (s.setScratch c).response = s.response := rfl

@[simp] theorem setAgenda_params (l : List Event) : (s.setAgenda l).params = s.params := rfl
@[simp] theorem setAgenda_ctrl (l : List Event) : (s.setAgenda l).ctrl = s.ctrl := rfl
@[simp] theorem setAgenda_status (l : List Event) : (s.setAgenda l).status = s.status := rfl
@[simp] theorem setAgenda_inLen (l : List Event) : (s.setAgenda l).inLen = s.inLen := rfl
@[simp] theorem setAgenda_outLen (l : List Event) : (s.setAgenda l).outLen = s.outLen := rfl
@[simp] theorem setAgenda_slotA (l : List Event) : (s.setAgenda l).slotA = s.slotA := rfl
@[simp] theorem setAgenda_slotB (l : List Event) : (s.setAgenda l).slotB = s.slotB := rfl
@[simp] theorem setAgenda_mem (l : List Event) : (s.setAgenda l).mem = s.mem := rfl
@[simp] theorem setAgenda_stage (l : List Event) : (s.setAgenda l).stage = s.stage := rfl
@[simp] theorem setAgenda_cmd (l : List Event) : (s.setAgenda l).cmd = s.cmd := rfl
@[simp] theorem setAgenda_scratch (l : List Event) : (s.setAgenda l).scratch = s.scratch := rfl
@[simp] theorem setAgenda_port (l : List Event) : (s.setAgenda l).port = s.port := rfl
@[simp] theorem setAgenda_draw (l : List Event) : (s.setAgenda l).draw = s.draw := rfl
@[simp] theorem setAgenda_orphans (l : List Event) : (s.setAgenda l).orphans = s.orphans := rfl
@[simp] theorem setAgenda_agenda (l : List Event) : (s.setAgenda l).agenda = l := rfl
@[simp] theorem setAgenda_response (l : List Event) : (s.setAgenda l).response = s.response := rfl

@[simp] theorem respond_params (r : Response) : (s.respond r).params = s.params := rfl
@[simp] theorem respond_ctrl (r : Response) : (s.respond r).ctrl = s.ctrl := rfl
@[simp] theorem respond_status (r : Response) : (s.respond r).status = s.status := rfl
@[simp] theorem respond_inLen (r : Response) : (s.respond r).inLen = s.inLen := rfl
@[simp] theorem respond_outLen (r : Response) : (s.respond r).outLen = s.outLen := rfl
@[simp] theorem respond_slotA (r : Response) : (s.respond r).slotA = s.slotA := rfl
@[simp] theorem respond_slotB (r : Response) : (s.respond r).slotB = s.slotB := rfl
@[simp] theorem respond_mem (r : Response) : (s.respond r).mem = s.mem := rfl
@[simp] theorem respond_stage (r : Response) : (s.respond r).stage = s.stage := rfl
@[simp] theorem respond_cmd (r : Response) : (s.respond r).cmd = s.cmd := rfl
@[simp] theorem respond_scratch (r : Response) : (s.respond r).scratch = s.scratch := rfl
@[simp] theorem respond_port (r : Response) : (s.respond r).port = s.port := rfl
@[simp] theorem respond_draw (r : Response) : (s.respond r).draw = s.draw := rfl
@[simp] theorem respond_orphans (r : Response) : (s.respond r).orphans = s.orphans := rfl
@[simp] theorem respond_agenda (r : Response) : (s.respond r).agenda = s.agenda := rfl
@[simp] theorem respond_response (r : Response) : (s.respond r).response = some r := rfl

@[simp] theorem setOverrun_params : (s.setOverrun).params = s.params := rfl
@[simp] theorem setOverrun_ctrl : (s.setOverrun).ctrl = s.ctrl := rfl
@[simp] theorem setOverrun_status : (s.setOverrun).status = { s.status with overrun := true } := rfl
@[simp] theorem setOverrun_inLen : (s.setOverrun).inLen = s.inLen := rfl
@[simp] theorem setOverrun_outLen : (s.setOverrun).outLen = s.outLen := rfl
@[simp] theorem setOverrun_slotA : (s.setOverrun).slotA = s.slotA := rfl
@[simp] theorem setOverrun_slotB : (s.setOverrun).slotB = s.slotB := rfl
@[simp] theorem setOverrun_mem : (s.setOverrun).mem = s.mem := rfl
@[simp] theorem setOverrun_stage : (s.setOverrun).stage = s.stage := rfl
@[simp] theorem setOverrun_cmd : (s.setOverrun).cmd = s.cmd := rfl
@[simp] theorem setOverrun_scratch : (s.setOverrun).scratch = s.scratch := rfl
@[simp] theorem setOverrun_port : (s.setOverrun).port = s.port := rfl
@[simp] theorem setOverrun_draw : (s.setOverrun).draw = s.draw := rfl
@[simp] theorem setOverrun_orphans : (s.setOverrun).orphans = s.orphans := rfl
@[simp] theorem setOverrun_agenda : (s.setOverrun).agenda = s.agenda := rfl
@[simp] theorem setOverrun_response : (s.setOverrun).response = s.response := rfl

@[simp] theorem issue_params (r : Request) : (s.issue r).params = s.params := rfl
@[simp] theorem issue_ctrl (r : Request) : (s.issue r).ctrl = s.ctrl := rfl
@[simp] theorem issue_status (r : Request) : (s.issue r).status = s.status := rfl
@[simp] theorem issue_inLen (r : Request) : (s.issue r).inLen = s.inLen := rfl
@[simp] theorem issue_outLen (r : Request) : (s.issue r).outLen = s.outLen := rfl
@[simp] theorem issue_slotA (r : Request) : (s.issue r).slotA = s.slotA := rfl
@[simp] theorem issue_slotB (r : Request) : (s.issue r).slotB = s.slotB := rfl
@[simp] theorem issue_mem (r : Request) : (s.issue r).mem = s.mem := rfl
@[simp] theorem issue_stage (r : Request) : (s.issue r).stage = s.stage := rfl
@[simp] theorem issue_cmd (r : Request) : (s.issue r).cmd = s.cmd := rfl
@[simp] theorem issue_scratch (r : Request) : (s.issue r).scratch = s.scratch := rfl
@[simp] theorem issue_port (r : Request) : (s.issue r).port = .requested r := rfl
@[simp] theorem issue_draw (r : Request) : (s.issue r).draw = s.draw := rfl
@[simp] theorem issue_orphans (r : Request) : (s.issue r).orphans = s.orphans := rfl
@[simp] theorem issue_agenda (r : Request) : (s.issue r).agenda = s.agenda := rfl
@[simp] theorem issue_response (r : Request) : (s.issue r).response = s.response := rfl

@[simp] theorem deliver_params (a : Answer) : (s.deliver a).params = s.params := rfl
@[simp] theorem deliver_ctrl (a : Answer) : (s.deliver a).ctrl = s.ctrl := rfl
@[simp] theorem deliver_status (a : Answer) : (s.deliver a).status = s.status := rfl
@[simp] theorem deliver_inLen (a : Answer) : (s.deliver a).inLen = s.inLen := rfl
@[simp] theorem deliver_outLen (a : Answer) : (s.deliver a).outLen = s.outLen := rfl
@[simp] theorem deliver_slotA (a : Answer) : (s.deliver a).slotA = s.slotA := rfl
@[simp] theorem deliver_slotB (a : Answer) : (s.deliver a).slotB = s.slotB := rfl
@[simp] theorem deliver_mem (a : Answer) : (s.deliver a).mem = s.mem := rfl
@[simp] theorem deliver_stage (a : Answer) : (s.deliver a).stage = s.stage := rfl
@[simp] theorem deliver_cmd (a : Answer) : (s.deliver a).cmd = s.cmd := rfl
@[simp] theorem deliver_scratch (a : Answer) : (s.deliver a).scratch = s.scratch := rfl
@[simp] theorem deliver_port (a : Answer) : (s.deliver a).port = .answered a := rfl
@[simp] theorem deliver_draw (a : Answer) : (s.deliver a).draw = s.draw := rfl
@[simp] theorem deliver_orphans (a : Answer) : (s.deliver a).orphans = s.orphans := rfl
@[simp] theorem deliver_agenda (a : Answer) : (s.deliver a).agenda = s.agenda := rfl
@[simp] theorem deliver_response (a : Answer) : (s.deliver a).response = s.response := rfl

@[simp] theorem release_params : (s.release).params = s.params := rfl
@[simp] theorem release_ctrl : (s.release).ctrl = s.ctrl := rfl
@[simp] theorem release_status : (s.release).status = s.status := rfl
@[simp] theorem release_inLen : (s.release).inLen = s.inLen := rfl
@[simp] theorem release_outLen : (s.release).outLen = s.outLen := rfl
@[simp] theorem release_slotA : (s.release).slotA = s.slotA := rfl
@[simp] theorem release_slotB : (s.release).slotB = s.slotB := rfl
@[simp] theorem release_mem : (s.release).mem = s.mem := rfl
@[simp] theorem release_stage : (s.release).stage = s.stage := rfl
@[simp] theorem release_cmd : (s.release).cmd = s.cmd := rfl
@[simp] theorem release_scratch : (s.release).scratch = s.scratch := rfl
@[simp] theorem release_port : (s.release).port = .idle := rfl
@[simp] theorem release_draw : (s.release).draw = s.draw := rfl
@[simp] theorem release_orphans : (s.release).orphans = s.orphans := rfl
@[simp] theorem release_agenda : (s.release).agenda = s.agenda := rfl
@[simp] theorem release_response : (s.release).response = s.response := rfl

@[simp] theorem raiseFail_params (code : ResultCode) : (s.raiseFail code).params = s.params := rfl
@[simp] theorem raiseFail_ctrl (code : ResultCode) : (s.raiseFail code).ctrl = s.ctrl := rfl
@[simp] theorem raiseFail_status (code : ResultCode) : (s.raiseFail code).status = s.status := rfl
@[simp] theorem raiseFail_inLen (code : ResultCode) : (s.raiseFail code).inLen = s.inLen := rfl
@[simp] theorem raiseFail_outLen (code : ResultCode) : (s.raiseFail code).outLen = s.outLen := rfl
@[simp] theorem raiseFail_slotA (code : ResultCode) : (s.raiseFail code).slotA = s.slotA := rfl
@[simp] theorem raiseFail_slotB (code : ResultCode) : (s.raiseFail code).slotB = s.slotB := rfl
@[simp] theorem raiseFail_mem (code : ResultCode) : (s.raiseFail code).mem = s.mem := rfl
@[simp] theorem raiseFail_stage (code : ResultCode) : (s.raiseFail code).stage = .commit := rfl
@[simp] theorem raiseFail_cmd (code : ResultCode) : (s.raiseFail code).cmd = s.cmd := rfl
@[simp] theorem raiseFail_scratch (code : ResultCode) :
    (s.raiseFail code).scratch =
      { s.scratch with pending := { s.scratch.pending with code := code } } := rfl
@[simp] theorem raiseFail_port (code : ResultCode) : (s.raiseFail code).port = .idle := rfl
@[simp] theorem raiseFail_draw (code : ResultCode) : (s.raiseFail code).draw = s.draw := rfl
@[simp] theorem raiseFail_orphans (code : ResultCode) : (s.raiseFail code).orphans = s.orphans := rfl
@[simp] theorem raiseFail_agenda (code : ResultCode) : (s.raiseFail code).agenda = s.agenda := rfl
@[simp] theorem raiseFail_response (code : ResultCode) : (s.raiseFail code).response = s.response := rfl

@[simp] theorem emit_params (out : Bytes) : (s.emit out).params = s.params := rfl
@[simp] theorem emit_ctrl (out : Bytes) : (s.emit out).ctrl = s.ctrl := rfl
@[simp] theorem emit_status (out : Bytes) : (s.emit out).status = s.status := rfl
@[simp] theorem emit_inLen (out : Bytes) : (s.emit out).inLen = s.inLen := rfl
@[simp] theorem emit_outLen (out : Bytes) : (s.emit out).outLen = s.outLen := rfl
@[simp] theorem emit_slotA (out : Bytes) : (s.emit out).slotA = s.slotA := rfl
@[simp] theorem emit_slotB (out : Bytes) : (s.emit out).slotB = s.slotB := rfl
@[simp] theorem emit_mem (out : Bytes) : (s.emit out).mem = s.mem := rfl
@[simp] theorem emit_stage (out : Bytes) : (s.emit out).stage = .commit := rfl
@[simp] theorem emit_cmd (out : Bytes) : (s.emit out).cmd = s.cmd := rfl
@[simp] theorem emit_scratch (out : Bytes) :
    (s.emit out).scratch =
      { s.scratch with pending := { s.scratch.pending with out := out } } := rfl
@[simp] theorem emit_port (out : Bytes) : (s.emit out).port = s.port := rfl
@[simp] theorem emit_draw (out : Bytes) : (s.emit out).draw = s.draw := rfl
@[simp] theorem emit_orphans (out : Bytes) : (s.emit out).orphans = s.orphans := rfl
@[simp] theorem emit_agenda (out : Bytes) : (s.emit out).agenda = s.agenda := rfl
@[simp] theorem emit_response (out : Bytes) : (s.emit out).response = s.response := rfl

@[simp] theorem accept_params (i : Instr) : (s.accept i).params = s.params := rfl
@[simp] theorem accept_ctrl (i : Instr) : (s.accept i).ctrl = s.ctrl := rfl
@[simp] theorem accept_status (i : Instr) :
    (s.accept i).status =
      { s.status with done := false, result := .ok, kind := .none, raw := false } := rfl
@[simp] theorem accept_inLen (i : Instr) : (s.accept i).inLen = s.inLen := rfl
@[simp] theorem accept_outLen (i : Instr) : (s.accept i).outLen = 0 := rfl
@[simp] theorem accept_slotA (i : Instr) : (s.accept i).slotA = s.slotA := rfl
@[simp] theorem accept_slotB (i : Instr) : (s.accept i).slotB = s.slotB := rfl
@[simp] theorem accept_mem (i : Instr) : (s.accept i).mem = s.mem := rfl
@[simp] theorem accept_stage (i : Instr) : (s.accept i).stage = .check := rfl
@[simp] theorem accept_cmd (i : Instr) : (s.accept i).cmd = some i := rfl
@[simp] theorem accept_scratch (i : Instr) :
    (s.accept i).scratch =
      { Scratch.empty with pending := { Scratch.empty.pending with kind := initialKind i } } := rfl
@[simp] theorem accept_port (i : Instr) : (s.accept i).port = .idle := rfl
@[simp] theorem accept_draw (i : Instr) : (s.accept i).draw = s.draw := rfl
@[simp] theorem accept_orphans (i : Instr) : (s.accept i).orphans = s.orphans := rfl
@[simp] theorem accept_agenda (i : Instr) : (s.accept i).agenda = s.agenda := rfl
@[simp] theorem accept_response (i : Instr) : (s.accept i).response = s.response := rfl

@[simp] theorem clearStorage_params : (s.clearStorage).params = s.params := rfl
@[simp] theorem clearStorage_ctrl : (s.clearStorage).ctrl = s.ctrl := rfl
@[simp] theorem clearStorage_status : (s.clearStorage).status = s.status := rfl
@[simp] theorem clearStorage_inLen : (s.clearStorage).inLen = 0 := rfl
@[simp] theorem clearStorage_outLen : (s.clearStorage).outLen = s.outLen := rfl
@[simp] theorem clearStorage_slotA : (s.clearStorage).slotA = KeySlot.cleared := rfl
@[simp] theorem clearStorage_slotB : (s.clearStorage).slotB = KeySlot.cleared := rfl
@[simp] theorem clearStorage_mem :
    (s.clearStorage).mem =
      (s.mem.write Config.inBufBase (List.replicate s.params.inBufSize 0)).write Config.outBufBase
        (List.replicate s.params.outBufSize 0) := rfl
@[simp] theorem clearStorage_stage : (s.clearStorage).stage = s.stage := rfl
@[simp] theorem clearStorage_cmd : (s.clearStorage).cmd = s.cmd := rfl
@[simp] theorem clearStorage_scratch : (s.clearStorage).scratch = s.scratch := rfl
@[simp] theorem clearStorage_port : (s.clearStorage).port = s.port := rfl
@[simp] theorem clearStorage_draw : (s.clearStorage).draw = s.draw := rfl
@[simp] theorem clearStorage_orphans : (s.clearStorage).orphans = s.orphans := rfl
@[simp] theorem clearStorage_agenda : (s.clearStorage).agenda = s.agenda := rfl
@[simp] theorem clearStorage_response : (s.clearStorage).response = s.response := rfl

@[simp] theorem complete_params (q : Pending) : (s.complete q).params = s.params := rfl
@[simp] theorem complete_ctrl (q : Pending) : (s.complete q).ctrl = s.ctrl := rfl
@[simp] theorem complete_status (q : Pending) :
    (s.complete q).status =
      { s.status with
        done := true, result := q.code, kind := q.kind, raw := if q.code = .ok then q.raw else false } := rfl
@[simp] theorem complete_inLen (q : Pending) : (s.complete q).inLen = s.inLen := rfl
@[simp] theorem complete_outLen (q : Pending) :
    (s.complete q).outLen =
      if q.code = .ok then BitVec.ofNat 16 q.out.length else 0 := rfl
@[simp] theorem complete_slotA (q : Pending) : (s.complete q).slotA = s.slotA := rfl
@[simp] theorem complete_slotB (q : Pending) : (s.complete q).slotB = s.slotB := rfl
@[simp] theorem complete_mem (q : Pending) :
    (s.complete q).mem =
      if q.code = .ok then s.mem.write Config.outBufBase q.out else s.mem := rfl
@[simp] theorem complete_stage (q : Pending) : (s.complete q).stage = .idle := rfl
@[simp] theorem complete_cmd (q : Pending) : (s.complete q).cmd = none := rfl
@[simp] theorem complete_scratch (q : Pending) : (s.complete q).scratch = Scratch.empty := rfl
@[simp] theorem complete_port (q : Pending) : (s.complete q).port = .idle := rfl
@[simp] theorem complete_draw (q : Pending) : (s.complete q).draw = s.draw := rfl
@[simp] theorem complete_orphans (q : Pending) : (s.complete q).orphans = s.orphans := rfl
@[simp] theorem complete_agenda (q : Pending) : (s.complete q).agenda = s.agenda := rfl
@[simp] theorem complete_response (q : Pending) : (s.complete q).response = s.response := rfl

@[simp] theorem writeCtrl_params (v : Word) : (s.writeCtrl v).params = s.params := rfl
@[simp] theorem writeCtrl_ctrl (v : Word) : (s.writeCtrl v).ctrl = ctrlOf v := rfl
@[simp] theorem writeCtrl_status (v : Word) : (s.writeCtrl v).status = s.status := rfl
@[simp] theorem writeCtrl_inLen (v : Word) : (s.writeCtrl v).inLen = s.inLen := rfl
@[simp] theorem writeCtrl_outLen (v : Word) : (s.writeCtrl v).outLen = s.outLen := rfl
@[simp] theorem writeCtrl_slotA (v : Word) : (s.writeCtrl v).slotA = s.slotA := rfl
@[simp] theorem writeCtrl_slotB (v : Word) : (s.writeCtrl v).slotB = s.slotB := rfl
@[simp] theorem writeCtrl_mem (v : Word) : (s.writeCtrl v).mem = s.mem := rfl
@[simp] theorem writeCtrl_stage (v : Word) : (s.writeCtrl v).stage = s.stage := rfl
@[simp] theorem writeCtrl_cmd (v : Word) : (s.writeCtrl v).cmd = s.cmd := rfl
@[simp] theorem writeCtrl_scratch (v : Word) : (s.writeCtrl v).scratch = s.scratch := rfl
@[simp] theorem writeCtrl_port (v : Word) : (s.writeCtrl v).port = s.port := rfl
@[simp] theorem writeCtrl_draw (v : Word) : (s.writeCtrl v).draw = s.draw := rfl
@[simp] theorem writeCtrl_orphans (v : Word) : (s.writeCtrl v).orphans = s.orphans := rfl
@[simp] theorem writeCtrl_agenda (v : Word) : (s.writeCtrl v).agenda = s.agenda := rfl
@[simp] theorem writeCtrl_response (v : Word) : (s.writeCtrl v).response = s.response := rfl

@[simp] theorem writeStatus_params (v : Word) : (s.writeStatus v).params = s.params := rfl
@[simp] theorem writeStatus_ctrl (v : Word) : (s.writeStatus v).ctrl = s.ctrl := rfl
@[simp] theorem writeStatus_status (v : Word) : (s.writeStatus v).status = s.status.clearedBy v := rfl
@[simp] theorem writeStatus_inLen (v : Word) : (s.writeStatus v).inLen = s.inLen := rfl
@[simp] theorem writeStatus_outLen (v : Word) : (s.writeStatus v).outLen = s.outLen := rfl
@[simp] theorem writeStatus_slotA (v : Word) : (s.writeStatus v).slotA = s.slotA := rfl
@[simp] theorem writeStatus_slotB (v : Word) : (s.writeStatus v).slotB = s.slotB := rfl
@[simp] theorem writeStatus_mem (v : Word) : (s.writeStatus v).mem = s.mem := rfl
@[simp] theorem writeStatus_stage (v : Word) : (s.writeStatus v).stage = s.stage := rfl
@[simp] theorem writeStatus_cmd (v : Word) : (s.writeStatus v).cmd = s.cmd := rfl
@[simp] theorem writeStatus_scratch (v : Word) : (s.writeStatus v).scratch = s.scratch := rfl
@[simp] theorem writeStatus_port (v : Word) : (s.writeStatus v).port = s.port := rfl
@[simp] theorem writeStatus_draw (v : Word) : (s.writeStatus v).draw = s.draw := rfl
@[simp] theorem writeStatus_orphans (v : Word) : (s.writeStatus v).orphans = s.orphans := rfl
@[simp] theorem writeStatus_agenda (v : Word) : (s.writeStatus v).agenda = s.agenda := rfl
@[simp] theorem writeStatus_response (v : Word) : (s.writeStatus v).response = s.response := rfl

@[simp] theorem writeInLen_params (v : Word) : (s.writeInLen v).params = s.params := rfl
@[simp] theorem writeInLen_ctrl (v : Word) : (s.writeInLen v).ctrl = s.ctrl := rfl
@[simp] theorem writeInLen_status (v : Word) : (s.writeInLen v).status = s.status := rfl
@[simp] theorem writeInLen_inLen (v : Word) : (s.writeInLen v).inLen = v.setWidth 16 := rfl
@[simp] theorem writeInLen_outLen (v : Word) : (s.writeInLen v).outLen = s.outLen := rfl
@[simp] theorem writeInLen_slotA (v : Word) : (s.writeInLen v).slotA = s.slotA := rfl
@[simp] theorem writeInLen_slotB (v : Word) : (s.writeInLen v).slotB = s.slotB := rfl
@[simp] theorem writeInLen_mem (v : Word) : (s.writeInLen v).mem = s.mem := rfl
@[simp] theorem writeInLen_stage (v : Word) : (s.writeInLen v).stage = s.stage := rfl
@[simp] theorem writeInLen_cmd (v : Word) : (s.writeInLen v).cmd = s.cmd := rfl
@[simp] theorem writeInLen_scratch (v : Word) : (s.writeInLen v).scratch = s.scratch := rfl
@[simp] theorem writeInLen_port (v : Word) : (s.writeInLen v).port = s.port := rfl
@[simp] theorem writeInLen_draw (v : Word) : (s.writeInLen v).draw = s.draw := rfl
@[simp] theorem writeInLen_orphans (v : Word) : (s.writeInLen v).orphans = s.orphans := rfl
@[simp] theorem writeInLen_agenda (v : Word) : (s.writeInLen v).agenda = s.agenda := rfl
@[simp] theorem writeInLen_response (v : Word) : (s.writeInLen v).response = s.response := rfl

@[simp] theorem writeKeyctl_params (v : Word) : (s.writeKeyctl v).params = s.params := rfl
@[simp] theorem writeKeyctl_ctrl (v : Word) : (s.writeKeyctl v).ctrl = s.ctrl := rfl
@[simp] theorem writeKeyctl_status (v : Word) : (s.writeKeyctl v).status = s.status := rfl
@[simp] theorem writeKeyctl_inLen (v : Word) : (s.writeKeyctl v).inLen = s.inLen := rfl
@[simp] theorem writeKeyctl_outLen (v : Word) : (s.writeKeyctl v).outLen = s.outLen := rfl
@[simp] theorem writeKeyctl_slotA (v : Word) :
    (s.writeKeyctl v).slotA =
      s.slotA.controlledBy (v.getLsbD 8) (v.getLsbD 16) := rfl
@[simp] theorem writeKeyctl_slotB (v : Word) :
    (s.writeKeyctl v).slotB =
      s.slotB.controlledBy (v.getLsbD 9) (v.getLsbD 17) := rfl
@[simp] theorem writeKeyctl_mem (v : Word) : (s.writeKeyctl v).mem = s.mem := rfl
@[simp] theorem writeKeyctl_stage (v : Word) : (s.writeKeyctl v).stage = s.stage := rfl
@[simp] theorem writeKeyctl_cmd (v : Word) : (s.writeKeyctl v).cmd = s.cmd := rfl
@[simp] theorem writeKeyctl_scratch (v : Word) : (s.writeKeyctl v).scratch = s.scratch := rfl
@[simp] theorem writeKeyctl_port (v : Word) : (s.writeKeyctl v).port = s.port := rfl
@[simp] theorem writeKeyctl_draw (v : Word) : (s.writeKeyctl v).draw = s.draw := rfl
@[simp] theorem writeKeyctl_orphans (v : Word) : (s.writeKeyctl v).orphans = s.orphans := rfl
@[simp] theorem writeKeyctl_agenda (v : Word) : (s.writeKeyctl v).agenda = s.agenda := rfl
@[simp] theorem writeKeyctl_response (v : Word) : (s.writeKeyctl v).response = s.response := rfl

@[simp] theorem writeKeyA_params (w : Nat) (v : Word) : (s.writeKeyA w v).params = s.params := rfl
@[simp] theorem writeKeyA_ctrl (w : Nat) (v : Word) : (s.writeKeyA w v).ctrl = s.ctrl := rfl
@[simp] theorem writeKeyA_status (w : Nat) (v : Word) : (s.writeKeyA w v).status = s.status := rfl
@[simp] theorem writeKeyA_inLen (w : Nat) (v : Word) : (s.writeKeyA w v).inLen = s.inLen := rfl
@[simp] theorem writeKeyA_outLen (w : Nat) (v : Word) : (s.writeKeyA w v).outLen = s.outLen := rfl
@[simp] theorem writeKeyA_slotA (w : Nat) (v : Word) : (s.writeKeyA w v).slotA = s.slotA.withWord w v := rfl
@[simp] theorem writeKeyA_slotB (w : Nat) (v : Word) : (s.writeKeyA w v).slotB = s.slotB := rfl
@[simp] theorem writeKeyA_mem (w : Nat) (v : Word) : (s.writeKeyA w v).mem = s.mem := rfl
@[simp] theorem writeKeyA_stage (w : Nat) (v : Word) : (s.writeKeyA w v).stage = s.stage := rfl
@[simp] theorem writeKeyA_cmd (w : Nat) (v : Word) : (s.writeKeyA w v).cmd = s.cmd := rfl
@[simp] theorem writeKeyA_scratch (w : Nat) (v : Word) : (s.writeKeyA w v).scratch = s.scratch := rfl
@[simp] theorem writeKeyA_port (w : Nat) (v : Word) : (s.writeKeyA w v).port = s.port := rfl
@[simp] theorem writeKeyA_draw (w : Nat) (v : Word) : (s.writeKeyA w v).draw = s.draw := rfl
@[simp] theorem writeKeyA_orphans (w : Nat) (v : Word) : (s.writeKeyA w v).orphans = s.orphans := rfl
@[simp] theorem writeKeyA_agenda (w : Nat) (v : Word) : (s.writeKeyA w v).agenda = s.agenda := rfl
@[simp] theorem writeKeyA_response (w : Nat) (v : Word) : (s.writeKeyA w v).response = s.response := rfl

@[simp] theorem writeKeyB_params (w : Nat) (v : Word) : (s.writeKeyB w v).params = s.params := rfl
@[simp] theorem writeKeyB_ctrl (w : Nat) (v : Word) : (s.writeKeyB w v).ctrl = s.ctrl := rfl
@[simp] theorem writeKeyB_status (w : Nat) (v : Word) : (s.writeKeyB w v).status = s.status := rfl
@[simp] theorem writeKeyB_inLen (w : Nat) (v : Word) : (s.writeKeyB w v).inLen = s.inLen := rfl
@[simp] theorem writeKeyB_outLen (w : Nat) (v : Word) : (s.writeKeyB w v).outLen = s.outLen := rfl
@[simp] theorem writeKeyB_slotA (w : Nat) (v : Word) : (s.writeKeyB w v).slotA = s.slotA := rfl
@[simp] theorem writeKeyB_slotB (w : Nat) (v : Word) : (s.writeKeyB w v).slotB = s.slotB.withWord w v := rfl
@[simp] theorem writeKeyB_mem (w : Nat) (v : Word) : (s.writeKeyB w v).mem = s.mem := rfl
@[simp] theorem writeKeyB_stage (w : Nat) (v : Word) : (s.writeKeyB w v).stage = s.stage := rfl
@[simp] theorem writeKeyB_cmd (w : Nat) (v : Word) : (s.writeKeyB w v).cmd = s.cmd := rfl
@[simp] theorem writeKeyB_scratch (w : Nat) (v : Word) : (s.writeKeyB w v).scratch = s.scratch := rfl
@[simp] theorem writeKeyB_port (w : Nat) (v : Word) : (s.writeKeyB w v).port = s.port := rfl
@[simp] theorem writeKeyB_draw (w : Nat) (v : Word) : (s.writeKeyB w v).draw = s.draw := rfl
@[simp] theorem writeKeyB_orphans (w : Nat) (v : Word) : (s.writeKeyB w v).orphans = s.orphans := rfl
@[simp] theorem writeKeyB_agenda (w : Nat) (v : Word) : (s.writeKeyB w v).agenda = s.agenda := rfl
@[simp] theorem writeKeyB_response (w : Nat) (v : Word) : (s.writeKeyB w v).response = s.response := rfl

@[simp] theorem writeInBuf_params (i : Nat) (v : Word) : (s.writeInBuf i v).params = s.params := rfl
@[simp] theorem writeInBuf_ctrl (i : Nat) (v : Word) : (s.writeInBuf i v).ctrl = s.ctrl := rfl
@[simp] theorem writeInBuf_status (i : Nat) (v : Word) : (s.writeInBuf i v).status = s.status := rfl
@[simp] theorem writeInBuf_inLen (i : Nat) (v : Word) : (s.writeInBuf i v).inLen = s.inLen := rfl
@[simp] theorem writeInBuf_outLen (i : Nat) (v : Word) : (s.writeInBuf i v).outLen = s.outLen := rfl
@[simp] theorem writeInBuf_slotA (i : Nat) (v : Word) : (s.writeInBuf i v).slotA = s.slotA := rfl
@[simp] theorem writeInBuf_slotB (i : Nat) (v : Word) : (s.writeInBuf i v).slotB = s.slotB := rfl
@[simp] theorem writeInBuf_mem (i : Nat) (v : Word) :
    (s.writeInBuf i v).mem =
      s.mem.write (Config.inBufBase + i) (lanesOf v) := rfl
@[simp] theorem writeInBuf_stage (i : Nat) (v : Word) : (s.writeInBuf i v).stage = s.stage := rfl
@[simp] theorem writeInBuf_cmd (i : Nat) (v : Word) : (s.writeInBuf i v).cmd = s.cmd := rfl
@[simp] theorem writeInBuf_scratch (i : Nat) (v : Word) : (s.writeInBuf i v).scratch = s.scratch := rfl
@[simp] theorem writeInBuf_port (i : Nat) (v : Word) : (s.writeInBuf i v).port = s.port := rfl
@[simp] theorem writeInBuf_draw (i : Nat) (v : Word) : (s.writeInBuf i v).draw = s.draw := rfl
@[simp] theorem writeInBuf_orphans (i : Nat) (v : Word) : (s.writeInBuf i v).orphans = s.orphans := rfl
@[simp] theorem writeInBuf_agenda (i : Nat) (v : Word) : (s.writeInBuf i v).agenda = s.agenda := rfl
@[simp] theorem writeInBuf_response (i : Nat) (v : Word) : (s.writeInBuf i v).response = s.response := rfl

@[simp] theorem discardLate_params : (s.discardLate).params = s.params := rfl
@[simp] theorem discardLate_ctrl : (s.discardLate).ctrl = s.ctrl := rfl
@[simp] theorem discardLate_status : (s.discardLate).status = s.status := rfl
@[simp] theorem discardLate_inLen : (s.discardLate).inLen = s.inLen := rfl
@[simp] theorem discardLate_outLen : (s.discardLate).outLen = s.outLen := rfl
@[simp] theorem discardLate_slotA : (s.discardLate).slotA = s.slotA := rfl
@[simp] theorem discardLate_slotB : (s.discardLate).slotB = s.slotB := rfl
@[simp] theorem discardLate_mem : (s.discardLate).mem = s.mem := rfl
@[simp] theorem discardLate_stage : (s.discardLate).stage = s.stage := rfl
@[simp] theorem discardLate_cmd : (s.discardLate).cmd = s.cmd := rfl
@[simp] theorem discardLate_scratch : (s.discardLate).scratch = s.scratch := rfl
@[simp] theorem discardLate_port : (s.discardLate).port = s.port := rfl
@[simp] theorem discardLate_draw : (s.discardLate).draw = s.draw := rfl
@[simp] theorem discardLate_orphans : (s.discardLate).orphans = s.orphans.tail := rfl
@[simp] theorem discardLate_agenda : (s.discardLate).agenda = s.agenda := rfl
@[simp] theorem discardLate_response : (s.discardLate).response = s.response := rfl

@[simp] theorem assertReset_params : (s.assertReset).params = s.params := rfl
@[simp] theorem assertReset_ctrl : (s.assertReset).ctrl = State.reset.ctrl := rfl
@[simp] theorem assertReset_status : (s.assertReset).status = State.reset.status := rfl
@[simp] theorem assertReset_inLen : (s.assertReset).inLen = State.reset.inLen := rfl
@[simp] theorem assertReset_outLen : (s.assertReset).outLen = State.reset.outLen := rfl
@[simp] theorem assertReset_slotA : (s.assertReset).slotA = State.reset.slotA := rfl
@[simp] theorem assertReset_slotB : (s.assertReset).slotB = State.reset.slotB := rfl
@[simp] theorem assertReset_mem : (s.assertReset).mem = State.reset.mem := rfl
@[simp] theorem assertReset_stage : (s.assertReset).stage = State.reset.stage := rfl
@[simp] theorem assertReset_cmd : (s.assertReset).cmd = State.reset.cmd := rfl
@[simp] theorem assertReset_scratch : (s.assertReset).scratch = State.reset.scratch := rfl
@[simp] theorem assertReset_port : (s.assertReset).port = State.reset.port := rfl
@[simp] theorem assertReset_draw : (s.assertReset).draw = s.draw + 1 := rfl
@[simp] theorem assertReset_agenda : (s.assertReset).agenda = s.agenda := rfl
@[simp] theorem assertReset_response : (s.assertReset).response = State.reset.response := rfl

end Sys2Proof.Machine.State
end

