-- ==== Sys2Proof/Laws/Sequencer.lean ====
section
/-! SUPPORT. What the shared operations can do: the port, the output check, completion, and `settle`. -/

namespace Sys2Proof.Machine

@[simp] theorem busy_eq_false_iff (s : State) : s.busy = false ↔ s.stage = .idle := by
  unfold State.busy
  cases s.stage <;> simp

@[simp] theorem busy_eq_true_iff (s : State) : s.busy = true ↔ s.stage ≠ .idle := by
  unfold State.busy
  cases s.stage <;> simp

/-- A frozen write sets OVERRUN while busy and takes effect otherwise (R300). -/
theorem unlessBusy_cases (s e : State) :
    (s.busy = true ∧ s.unlessBusy e = s.setOverrun) ∨ (s.busy = false ∧ s.unlessBusy e = e) := by
  unfold State.unlessBusy
  cases s.busy <;> simp

/-- The output check ends in LengthError or in the result (R217). -/
theorem emitChecked_cases (s : State) (out : Bytes) :
    (s.params.outBufSize < out.length ∧ s.emitChecked out = s.raiseFail .lengthError) ∨
      (out.length ≤ s.params.outBufSize ∧ s.emitChecked out = s.emit out) := by
  unfold State.emitChecked
  split
  · exact .inl ⟨‹_›, rfl⟩
  · exact .inr ⟨by omega, rfl⟩

/-- A completion with a failure shows only its code and KIND (R220, R222). -/
theorem complete_of_failure (s : State) {q : Pending} (h : q.code ≠ .ok) :
    s.complete q =
      s.complete { code := q.code, out := [], kind := q.kind, raw := false } := by
  simp [State.complete, h]

/-- The completion replaces what the command's stages have written. -/
theorem complete_congr {s t : State} (q : Pending) (h1 : s.params = t.params) (h2 : s.ctrl = t.ctrl)
    (h3 : s.status.overrun = t.status.overrun) (h4 : s.inLen = t.inLen) (h5 : s.slotA = t.slotA)
    (h6 : s.slotB = t.slotB) (h7 : s.mem = t.mem) (h8 : s.draw = t.draw) (h9 : s.orphans = t.orphans)
    (h10 : s.agenda = t.agenda) (h11 : s.response = t.response) : s.complete q = t.complete q := by
  cases s
  cases t
  simp only at h1 h2 h3 h4 h5 h6 h7 h8 h9 h10 h11
  subst h1 h2 h4 h5 h6 h7 h8 h9 h10 h11
  simp [State.complete, h3]

theorem settle_zero (s : State) : settle 0 s = .next s := rfl

/-- One own move, then the rest. -/
theorem settle_succ {s t : State} (n : Nat) (h : ownMove s = .next t) : settle (n + 1) s = settle n t := by
  rw [settle, h]

/-- A free port leaves the move to the sequencer. -/
theorem ownMove_of_port_idle {s : State} (h : s.port = .idle) : ownMove s = sequencerMove s := by
  simp [ownMove, h]

/-- An outstanding request is answered by its engine. -/
theorem ownMove_of_requested {s : State} {r : Request} (h : s.port = .requested r) :
    ownMove s = .next (s.deliver (engineAnswer r)) := by
  simp [ownMove, engineMove, h]

/-- An answer that has come leaves the move to the sequencer. -/
theorem ownMove_of_answered {s : State} {a : Answer} (h : s.port = .answered a) : ownMove s = sequencerMove s := by
  simp [ownMove, h]

/-- An idle block stays as it is (R281). -/
theorem ownMove_of_idle {s : State} (h : s.stage = .idle) (hp : s.port = .idle) : ownMove s = .next s := by
  simp [ownMove, sequencerMove, h, hp]

theorem settle_of_idle {s : State} (n : Nat) (h : s.stage = .idle) (hp : s.port = .idle) :
    settle n s = .next s := by
  induction n with
  | zero => rfl
  | succ n ih => rw [settle_succ n (ownMove_of_idle h hp), ih]

/-- Moves made in two parts. -/
theorem settle_add {s t : State} {m : Nat} (n : Nat) (h : settle m s = .next t) :
    settle (m + n) s = settle n t := by
  induction m generalizing s with
  | zero =>
    simp only [settle, Host.Outcome.next.injEq] at h
    simp [h]
  | succ m ih =>
    rw [settle] at h
    split at h
    · rename_i s' e
      rw [Nat.succ_add, settle_succ _ e]
      exact ih h
    · simp at h
    · simp at h

/-- The outcome does not change when more moves are allowed than the way to IDLE takes. -/
theorem settle_mono {s t : State} {m n : Nat} (hmn : m ≤ n) (h : settle m s = .next t) (hi : t.stage = .idle)
    (hp : t.port = .idle) : settle n s = .next t := by
  obtain ⟨k, rfl⟩ := Nat.exists_eq_add_of_le hmn
  rw [settle_add k h, settle_of_idle k hi hp]

end Sys2Proof.Machine
end

