-- ==== Sys2Proof/Laws/Safety.lean ====
section
/-! SUPPORT. What the sequencer's own updates leave alone: a command's inputs, the bytes of the buffers, and the
completion that will follow (R84, R156). -/

namespace Sys2Proof.Machine.State

variable (s : State)

@[simp] theorem gotoStage_inputs (st : Stage) : (s.gotoStage st).inputs = s.inputs := rfl
@[simp] theorem gotoStage_input (st : Stage) : (s.gotoStage st).input = s.input := rfl
@[simp] theorem gotoStage_byteAt (st : Stage) (n : Nat) : (s.gotoStage st).byteAt n = s.byteAt n := rfl
@[simp] theorem gotoStage_complete (st : Stage) (q : Pending) : (s.gotoStage st).complete q = s.complete q := rfl
@[simp] theorem setScratch_inputs (c : Scratch) : (s.setScratch c).inputs = s.inputs := rfl
@[simp] theorem setScratch_input (c : Scratch) : (s.setScratch c).input = s.input := rfl
@[simp] theorem setScratch_byteAt (c : Scratch) (n : Nat) : (s.setScratch c).byteAt n = s.byteAt n := rfl
@[simp] theorem setScratch_complete (c : Scratch) (q : Pending) : (s.setScratch c).complete q = s.complete q := rfl
@[simp] theorem issue_inputs (r : Request) : (s.issue r).inputs = s.inputs := rfl
@[simp] theorem issue_input (r : Request) : (s.issue r).input = s.input := rfl
@[simp] theorem issue_byteAt (r : Request) (n : Nat) : (s.issue r).byteAt n = s.byteAt n := rfl
@[simp] theorem issue_complete (r : Request) (q : Pending) : (s.issue r).complete q = s.complete q := rfl
@[simp] theorem deliver_inputs (a : Answer) : (s.deliver a).inputs = s.inputs := rfl
@[simp] theorem deliver_input (a : Answer) : (s.deliver a).input = s.input := rfl
@[simp] theorem deliver_byteAt (a : Answer) (n : Nat) : (s.deliver a).byteAt n = s.byteAt n := rfl
@[simp] theorem deliver_complete (a : Answer) (q : Pending) : (s.deliver a).complete q = s.complete q := rfl
@[simp] theorem release_inputs : (s.release).inputs = s.inputs := rfl
@[simp] theorem release_input : (s.release).input = s.input := rfl
@[simp] theorem release_byteAt (n : Nat) : (s.release).byteAt n = s.byteAt n := rfl
@[simp] theorem release_complete (q : Pending) : (s.release).complete q = s.complete q := rfl
@[simp] theorem raiseFail_inputs (code : ResultCode) : (s.raiseFail code).inputs = s.inputs := rfl
@[simp] theorem raiseFail_input (code : ResultCode) : (s.raiseFail code).input = s.input := rfl
@[simp] theorem raiseFail_byteAt (code : ResultCode) (n : Nat) : (s.raiseFail code).byteAt n = s.byteAt n := rfl
@[simp] theorem raiseFail_complete (code : ResultCode) (q : Pending) : (s.raiseFail code).complete q = s.complete q := rfl
@[simp] theorem emit_inputs (out : Bytes) : (s.emit out).inputs = s.inputs := rfl
@[simp] theorem emit_input (out : Bytes) : (s.emit out).input = s.input := rfl
@[simp] theorem emit_byteAt (out : Bytes) (n : Nat) : (s.emit out).byteAt n = s.byteAt n := rfl
@[simp] theorem emit_complete (out : Bytes) (q : Pending) : (s.emit out).complete q = s.complete q := rfl
@[simp] theorem accept_inputs (i : Instr) : (s.accept i).inputs = s.inputs := rfl
@[simp] theorem accept_input (i : Instr) : (s.accept i).input = s.input := rfl
@[simp] theorem accept_byteAt (i : Instr) (n : Nat) : (s.accept i).byteAt n = s.byteAt n := rfl
@[simp] theorem accept_complete (i : Instr) (q : Pending) : (s.accept i).complete q = s.complete q := rfl
@[simp] theorem respond_inputs (r : Response) : (s.respond r).inputs = s.inputs := rfl
@[simp] theorem respond_input (r : Response) : (s.respond r).input = s.input := rfl
@[simp] theorem respond_byteAt (r : Response) (n : Nat) : (s.respond r).byteAt n = s.byteAt n := rfl
@[simp] theorem respond_complete (r : Response) (q : Pending) : (s.respond r).complete q = (s.complete q).respond r := rfl
@[simp] theorem setOverrun_inputs : (s.setOverrun).inputs = s.inputs := rfl
@[simp] theorem setOverrun_input : (s.setOverrun).input = s.input := rfl
@[simp] theorem setOverrun_byteAt (n : Nat) : (s.setOverrun).byteAt n = s.byteAt n := rfl
@[simp] theorem setAgenda_inputs (l : List Event) : (s.setAgenda l).inputs = s.inputs := rfl
@[simp] theorem setAgenda_input (l : List Event) : (s.setAgenda l).input = s.input := rfl
@[simp] theorem setAgenda_byteAt (l : List Event) (n : Nat) : (s.setAgenda l).byteAt n = s.byteAt n := rfl

end Sys2Proof.Machine.State
end

