-- ==== Sys2Proof/Laws/Buffers.lean ====
section
/-! SUPPORT. What the operations that write the buffers do to their bytes, and that each keeps the memory's
canonical form. -/

namespace Sys2Proof.Machine

/-- A byte read after bytes have been stored. -/
theorem byteAt_of_mem_write {s t : State} {base : Nat} {bytes : Bytes} (hd : t.draw = s.draw)
    (hm : t.mem = s.mem.write base bytes) (a : Nat) :
    t.byteAt a = if base ≤ a ∧ a < base + bytes.length then bytes.getD (a - base) 0 else s.byteAt a := by
  unfold State.byteAt
  rw [hm, hd, Memory.read?_write]
  split
  · rename_i h
    rw [List.getD_eq_getElem?_getD, List.getElem?_eq_getElem (by omega)]
    rfl
  · rfl

/-- A write of an IN_BUF word (R45). -/
theorem writeInBuf_byteAt (s : State) (i : Nat) (v : Word) (a : Nat) :
    (s.writeInBuf i v).byteAt a =
      if 0x400 + i ≤ a ∧ a < 0x400 + i + 4 then (lanesOf v).getD (a - (0x400 + i)) 0 else s.byteAt a :=
  byteAt_of_mem_write (s := s) (t := s.writeInBuf i v) rfl rfl a

/-- A completion with a result stores its bytes at the start of OUT_BUF (R220). -/
theorem complete_byteAt_ok (s : State) {q : Pending} (h : q.code = .ok) (a : Nat) :
    (s.complete q).byteAt a =
      if 0x800 ≤ a ∧ a < 0x800 + q.out.length then q.out.getD (a - 0x800) 0 else s.byteAt a :=
  byteAt_of_mem_write (s := s) (t := s.complete q) rfl (by simp [h, Config.outBufBase]) a

/-- A completion with a failure stores nothing (R220, R222). -/
theorem complete_byteAt_fail (s : State) {q : Pending} (h : q.code ≠ .ok) (a : Nat) :
    (s.complete q).byteAt a = s.byteAt a := by
  simp [State.byteAt, h]

/-- ZEROIZE's clearing (R245): the bytes of both buffers are 0, every other one stays. -/
theorem clearStorage_byteAt (s : State) (a : Nat) :
    s.clearStorage.byteAt a =
      if (0x400 ≤ a ∧ a < 0x400 + s.params.inBufSize) ∨ (0x800 ≤ a ∧ a < 0x800 + s.params.outBufSize) then 0
      else s.byteAt a := by
  unfold State.byteAt
  rw [State.clearStorage_mem, State.clearStorage_draw, Memory.read?_write, Memory.read?_write]
  simp only [List.length_replicate, Config.inBufBase, Config.outBufBase]
  by_cases h2 : 0x800 ≤ a ∧ a < 0x800 + s.params.outBufSize
  · rw [if_pos h2, if_pos (.inr h2), List.getElem?_replicate, if_pos (by omega)]
    rfl
  · rw [if_neg h2]
    by_cases h1 : 0x400 ≤ a ∧ a < 0x400 + s.params.inBufSize
    · rw [if_pos h1, if_pos (.inl h1), List.getElem?_replicate, if_pos (by omega)]
      rfl
    · rw [if_neg h1, if_neg (by tauto)]

/-! ## The canonical form -/

theorem writeInBuf_wf {s : State} (i : Nat) (v : Word) (h : s.mem.wf) : (s.writeInBuf i v).mem.wf :=
  Memory.write_wf _ _ h

theorem complete_wf {s : State} (q : Pending) (h : s.mem.wf) : (s.complete q).mem.wf := by
  rw [State.complete_mem]
  split
  · exact Memory.write_wf _ _ h
  · exact h

theorem clearStorage_wf {s : State} (h : s.mem.wf) : s.clearStorage.mem.wf :=
  Memory.write_wf _ _ (Memory.write_wf _ _ h)

theorem assertReset_wf (s : State) : s.assertReset.mem.wf := Memory.nil_wf

theorem reset_wf : State.reset.mem.wf := Memory.nil_wf

end Sys2Proof.Machine
end

