-- ==== Sys2Proof/Laws/Moves.lean ====
section
/-! SUPPORT. What one move of the sequencer, one answer, one access and one step can do: one lemma per operation,
with its guards, to cite instead of unfolding it. -/

namespace Sys2Proof.Machine

/-! ## Stages -/

/-- CHECK (R150). -/
theorem stageCheck_cases {s s' : State} (h : stageCheck s = .next s') :
    (∃ o r, s.cmd = some (.illegal o r) ∧ s' = s.raiseFail .illegalCommand) ∨
      (∃ i, s.cmd = some i ∧ checksLength i = true ∧ s.params.inBufSize < s.inLen.toNat ∧
        s' = s.raiseFail .lengthError) ∨
      ∃ i, s.cmd = some i ∧ (∀ o r, i ≠ .illegal o r) ∧
        (checksLength i = true → s.inLen.toNat ≤ s.params.inBufSize) ∧ s' = s.gotoStage (stageAfterCheck i) := by
  unfold stageCheck at h
  split at h
  · simp at h
  · rename_i o r e
    exact .inl ⟨o, r, e, by simpa using h.symm⟩
  · rename_i i hi e
    split at h
    · rename_i hc
      simp only [Bool.and_eq_true, decide_eq_true_eq] at hc
      exact .inr (.inl ⟨i, e, hc.1, hc.2, by simpa using h.symm⟩)
    · rename_i hc
      simp only [Bool.and_eq_true, decide_eq_true_eq, not_and, Nat.not_lt] at hc
      exact .inr (.inr ⟨i, e, fun o r => hi o r, hc, by simpa using h.symm⟩)

/-- The passthrough prefixes (R131). -/
theorem isPassthrough_iff (fields : List Bytes) :
    isPassthrough fields = true ↔ fields.headD [] = ascii "imsi" ∨ fields.headD [] = ascii "nai" := by
  simp [isPassthrough]

/-- PARSE (R130 to R134, R151). -/
theorem stageParse_cases (s : State) :
    (isPassthrough (splitFields s.input) = true ∧ s.params.passthroughViaDispatch = false ∧
        stageParse s = passthrough (s.setScratch { s.scratch with fields := splitFields s.input })) ∨
      (isPassthrough (splitFields s.input) = true ∧ s.params.passthroughViaDispatch = true ∧
        stageParse s = (s.setScratch { s.scratch with fields := splitFields s.input }).gotoStage .dispatch) ∨
      ((splitFields s.input).headD [] = ascii "suci" ∧ (splitFields s.input).length < 6 ∧
        stageParse s = s.raiseFail .invalidFormat) ∨
      ((splitFields s.input).headD [] = ascii "suci" ∧ 6 ≤ (splitFields s.input).length ∧
        stageParse s = (s.setScratch { s.scratch with fields := splitFields s.input }).gotoStage .dispatch) ∨
      stageParse s = s.raiseFail .unknownPrefix := by
  simp only [stageParse]
  split
  · split
    · exact .inr (.inl ⟨‹_›, ‹_›, rfl⟩)
    · rename_i h
      exact .inl ⟨‹_›, by simpa using h, rfl⟩
  · split
    · split
      · exact .inr (.inr (.inl ⟨‹_›, ‹_›, rfl⟩))
      · exact .inr (.inr (.inr (.inl ⟨‹_›, by omega, rfl⟩)))
    · exact .inr (.inr (.inr (.inr rfl)))

/-- DISPATCH (R135 to R138), and the passthrough branch of R151. -/
theorem stageDispatch_cases (s : State) :
    (isPassthrough s.scratch.fields = true ∧ stageDispatch s = passthrough s) ∨
      stageDispatch s = nullScheme s (bindFields s.scratch) ∨
      stageDispatch s = chooseProfile s (bindFields s.scratch) .a .profileA ∨
      stageDispatch s = chooseProfile s (bindFields s.scratch) .b .profileB ∨
      (s.ctrl.legacyNullFallback = false ∧ stageDispatch s = s.raiseFail .unsupportedScheme) := by
  simp only [stageDispatch]
  split
  · exact .inl ⟨‹_›, rfl⟩
  · split
    · exact .inr (.inl rfl)
    · split
      · exact .inr (.inr (.inl rfl))
      · split
        · exact .inr (.inr (.inr (.inl rfl)))
        · split
          · exact .inr (.inl rfl)
          · rename_i h
            exact .inr (.inr (.inr (.inr ⟨by simpa using h, rfl⟩)))

/-- HEXDEC (R152). -/
theorem stageHexdec_cases (s : State) :
    (hexDecode s.scratch.schemeOutput = none ∧ stageHexdec s = s.raiseFail .hexDecodeFailed) ∨
      ∃ d, hexDecode s.scratch.schemeOutput = some d ∧
        stageHexdec s = (s.setScratch { s.scratch with decoded := d }).gotoStage .keylen := by
  unfold stageHexdec
  split
  · exact .inl ⟨‹_›, rfl⟩
  · exact .inr ⟨_, ‹_›, rfl⟩

/-- The length check of KEYLEN (R154). -/
theorem checkTotalLength_cases (s : State) (n : Nat) (form : Option KeyForm) :
    (s.scratch.decoded.length < n + 8 ∧ checkTotalLength s n form = s.raiseFail .inputTooShort) ∨
      (n + 8 ≤ s.scratch.decoded.length ∧
        checkTotalLength s n form =
          (s.setScratch { s.scratch with pubKeyLen := n, form := form }).gotoStage .split) := by
  unfold checkTotalLength Config.macLen
  split
  · exact .inl ⟨‹_›, rfl⟩
  · exact .inr ⟨by omega, rfl⟩

/-- KEYLEN (R153, R154): Profile B leaves it for SPLIT only with a form. -/
theorem stageKeylen_cases {s s' : State} (h : stageKeylen s = .next s') :
    (∃ e, e ≠ .ok ∧ s' = s.raiseFail e) ∨
      ∃ n form, (s.scratch.profile = some .b → form ≠ none) ∧ n + 8 ≤ s.scratch.decoded.length ∧
        s' = (s.setScratch { s.scratch with pubKeyLen := n, form := form }).gotoStage .split := by
  unfold stageKeylen at h
  split at h
  · simp at h
  · rename_i e
    rcases checkTotalLength_cases s 32 none with ⟨-, e2⟩ | ⟨hl, e2⟩ <;> rw [e2] at h
    · exact .inl ⟨.inputTooShort, by simp, by simpa using h.symm⟩
    · exact .inr ⟨32, none, by simp [e], hl, by simpa using h.symm⟩
  · unfold keyLengthB at h
    split at h
    · exact .inl ⟨.inputTooShort, by simp, by simpa using h.symm⟩
    · split at h
      · rcases checkTotalLength_cases s 33 (some .compressed) with ⟨-, e2⟩ | ⟨hl, e2⟩ <;> rw [e2] at h
        · exact .inl ⟨.inputTooShort, by simp, by simpa using h.symm⟩
        · exact .inr ⟨33, some .compressed, by simp, hl, by simpa using h.symm⟩
      · split at h
        · rcases checkTotalLength_cases s 65 (some .uncompressed) with ⟨-, e2⟩ | ⟨hl, e2⟩ <;> rw [e2] at h
          · exact .inl ⟨.inputTooShort, by simp, by simpa using h.symm⟩
          · exact .inr ⟨65, some .uncompressed, by simp, hl, by simpa using h.symm⟩
        · exact .inl ⟨.invalidPublicKeyEncoding, by simp, by simpa using h.symm⟩

/-- The first move of KEYAGREE (R170, R173, R181): a failure, or the profile's one request, made only with a
committed key. -/
theorem beginAgreement_cases {s s' : State} (h : beginAgreement s = .next s') :
    (∃ e, e ≠ .ok ∧ s' = s.raiseFail e) ∨
      (s.scratch.profile = some .a ∧ s.slotA.valid = true ∧
        s' =
          (s.setScratch { s.scratch with kdfPublicKey := s.scratch.ephemeralKey }).issue
            (.x25519 s.slotA.key.toList s.scratch.ephemeralKey)) ∨
      ∃ form pt, s.scratch.profile = some .b ∧ s.scratch.form = some form ∧ s.slotB.valid = true ∧
        pointOf form s.scratch.ephemeralKey = some pt ∧
        s' =
          (s.setScratch { s.scratch with point := some pt, kdfPublicKey := P256.compressPoint pt }).issue
            (.p256SmulX s.slotB.key.toList pt.1 pt.2) := by
  unfold beginAgreement at h
  split at h
  · rename_i e
    unfold agreeA at h
    split at h
    · exact .inr (.inl ⟨e, ‹_›, by simpa using h.symm⟩)
    · exact .inl ⟨.keyNotLoaded, by simp, by simpa using h.symm⟩
  · rename_i form e1 e2
    unfold agreeB at h
    split at h
    · split at h
      · exact .inl ⟨.keyAgreementFailed, by simp, by simpa using h.symm⟩
      · rename_i pt e3
        exact .inr (.inr ⟨form, pt, e1, e2, ‹_›, e3, by simpa using h.symm⟩)
    · exact .inl ⟨.keyNotLoaded, by simp, by simpa using h.symm⟩
  · simp at h
  · simp at h

/-- KEYAGREE: the first move, a wait, or the use of the answer (R173, R180). -/
theorem stageKeyagree_cases {s s' : State} (h : stageKeyagree s = .next s') :
    (s.port = .idle ∧ beginAgreement s = .next s') ∨ (∃ r, s.port = .requested r ∧ s' = s) ∨
      (s.port = .answered .fail ∧ s' = s.raiseFail .keyAgreementFailed) ∨
      ∃ z, s.port = .answered (.ok z) ∧
        s' = ((s.setScratch { s.scratch with sharedSecret := z }).release).gotoStage .kdf := by
  unfold stageKeyagree at h
  split at h
  · exact .inl ⟨‹_›, h⟩
  · exact .inr (.inl ⟨_, ‹_›, by simpa using h.symm⟩)
  · rename_i a e
    cases a with
    | ok z => exact .inr (.inr (.inr ⟨z, e, by simpa [takeSharedSecret] using h.symm⟩))
    | fail => exact .inr (.inr (.inl ⟨e, by simpa [takeSharedSecret] using h.symm⟩))

/-- R190. -/
theorem kdfRounds_eq : Config.kdfRounds = 2 := rfl

/-- KDF (R191, R192): the next round's request, the key split, a wait, or a digest. -/
theorem stageKdf_cases {s s' : State} (h : stageKdf s = .next s') :
    (s.port = .idle ∧ s.scratch.kdfRound < 2 ∧
        s' =
          s.issue
            (.sha256 (kdfInput s.scratch.sharedSecret s.scratch.kdfPublicKey (s.scratch.kdfRound + 1)))) ∨
      (s.port = .idle ∧ 2 ≤ s.scratch.kdfRound ∧ s' = (s.setScratch (splitKeys s.scratch)).gotoStage .mac) ∨
      (∃ r, s.port = .requested r ∧ s' = s) ∨
      ∃ z, s.port = .answered (.ok z) ∧
        s' =
          (s.setScratch
            { s.scratch with derived := s.scratch.derived ++ z, kdfRound := s.scratch.kdfRound + 1 }).release := by
  unfold stageKdf at h
  split at h
  · rename_i e
    unfold kdfAdvance at h
    rw [kdfRounds_eq] at h
    split at h
    · exact .inl ⟨e, ‹_›, by simpa using h.symm⟩
    · exact .inr (.inl ⟨e, by omega, by simpa using h.symm⟩)
  · exact .inr (.inr (.inl ⟨_, ‹_›, by simpa using h.symm⟩))
  · rename_i a e
    cases a with
    | ok z => exact .inr (.inr (.inr ⟨z, e, by simpa [takeDigest] using h.symm⟩))
    | fail => simp [takeDigest] at h

/-- The use of a tag (R200, R201), by whether its first eight bytes equal the MAC. -/
theorem takeTag_ok (s : State) (tag : Bytes) :
    takeTag s (.ok tag) =
      if macDiff (slice tag 0 8) s.scratch.mac = 0 then
        .next (((s.setScratch { s.scratch with expectedMac := slice tag 0 8 }).release).gotoStage .decrypt)
      else
        .next ((s.setScratch { s.scratch with expectedMac := slice tag 0 8 }).raiseFail .macVerificationFailed) := by
  by_cases h : macDiff (slice tag 0 8) s.scratch.mac = 0
  · rw [if_pos h]
    exact if_neg (not_not.2 h)
  · rw [if_neg h]
    exact if_pos h

/-- MAC (R200, R201): the request, a wait, a mismatch, or on to DECRYPT with an equal MAC. -/
theorem stageMac_cases {s s' : State} (h : stageMac s = .next s') :
    (s.port = .idle ∧ s' = s.issue (.hmacSha256 s.scratch.macKey s.scratch.ciphertext)) ∨
      (∃ r, s.port = .requested r ∧ s' = s) ∨
      (∃ tag, s.port = .answered (.ok tag) ∧ macDiff (slice tag 0 8) s.scratch.mac ≠ 0 ∧
        s' = (s.setScratch { s.scratch with expectedMac := slice tag 0 8 }).raiseFail .macVerificationFailed) ∨
      ∃ tag, s.port = .answered (.ok tag) ∧ macDiff (slice tag 0 8) s.scratch.mac = 0 ∧
        s' = ((s.setScratch { s.scratch with expectedMac := slice tag 0 8 }).release).gotoStage .decrypt := by
  unfold stageMac at h
  split at h
  · exact .inl ⟨‹_›, by simpa using h.symm⟩
  · exact .inr (.inl ⟨_, ‹_›, by simpa using h.symm⟩)
  · rename_i a e
    cases a with
    | fail => simp [takeTag] at h
    | ok tag =>
      rw [takeTag_ok] at h
      by_cases hd : macDiff (slice tag 0 8) s.scratch.mac = 0
      · rw [if_pos hd] at h
        exact .inr (.inr (.inr ⟨tag, e, hd, by simpa using h.symm⟩))
      · rw [if_neg hd] at h
        exact .inr (.inr (.inl ⟨tag, e, hd, by simpa using h.symm⟩))

/-- DECRYPT (R202): the request, a wait, or the plaintext. -/
theorem stageDecrypt_cases {s s' : State} (h : stageDecrypt s = .next s') :
    (s.port = .idle ∧ s' = s.issue (.aes128Ctr s.scratch.encKey s.scratch.icb s.scratch.ciphertext)) ∨
      (∃ r, s.port = .requested r ∧ s' = s) ∨
      ∃ z, s.port = .answered (.ok z) ∧
        s' = ((s.setScratch { s.scratch with plaintext := z }).release).gotoStage .decode := by
  unfold stageDecrypt at h
  split at h
  · exact .inl ⟨‹_›, by simpa using h.symm⟩
  · exact .inr (.inl ⟨_, ‹_›, by simpa using h.symm⟩)
  · rename_i a e
    cases a with
    | fail => simp [takePlaintext] at h
    | ok z => exact .inr (.inr ⟨z, e, by simpa [takePlaintext] using h.symm⟩)

/-- AUX (R230, R235, R240, R245): a failure or a result that fits, and for ZEROIZE the empty result. -/
theorem stageAux_cases {s s' : State} (h : stageAux s = .next s') :
    (∃ e, e ≠ .ok ∧ s' = s.raiseFail e) ∨ (s.cmd = some .zeroize ∧ s' = s.emit []) ∨
      ∃ out : Bytes, out.length ≤ s.params.outBufSize ∧ s' = s.emit out := by
  have hec : ∀ out, (∃ e, e ≠ .ok ∧ s.emitChecked out = s.raiseFail e) ∨
      (s.cmd = some .zeroize ∧ s.emitChecked out = s.emit []) ∨
        ∃ o : Bytes, o.length ≤ s.params.outBufSize ∧ s.emitChecked out = s.emit o := by
    intro out
    rcases emitChecked_cases s out with ⟨-, e⟩ | ⟨hl, e⟩
    · exact .inl ⟨_, by simp, e⟩
    · exact .inr (.inr ⟨out, hl, e⟩)
  unfold stageAux at h
  split at h <;> simp only [Host.Outcome.next.injEq, reduceCtorEq] at h <;> subst h
  · unfold auxP256Decompress
    split
    · exact .inl ⟨_, by simp, rfl⟩
    · split
      · split
        · exact .inl ⟨_, by simp, rfl⟩
        · split
          · exact .inl ⟨_, by simp, rfl⟩
          · exact hec _
      · exact .inl ⟨_, by simp, rfl⟩
  · unfold auxP256Compress
    split
    · exact .inl ⟨_, by simp, rfl⟩
    · split
      · split
        · exact .inl ⟨_, by simp, rfl⟩
        · split
          · exact .inl ⟨_, by simp, rfl⟩
          · exact hec _
      · split
        · split
          · exact .inl ⟨_, by simp, rfl⟩
          · split
            · exact .inl ⟨_, by simp, rfl⟩
            · exact hec _
        · exact .inl ⟨_, by simp, rfl⟩
  · exact hec _
  · exact .inr (.inl ⟨‹_›, rfl⟩)

/-! ## One move -/

/-- Before COMMIT a move changes only the stage, the scratch and the port (R156). -/
theorem sequencerMove_frame {s s' : State} (h : sequencerMove s = .next s') (hc : s.stage ≠ .commit) :
    s' = { s with stage := s'.stage, scratch := s'.scratch, port := s'.port } := by
  unfold sequencerMove at h
  split at h
  · simp only [Host.Outcome.next.injEq] at h
    subst h
    rfl
  · obtain ⟨o, r, -, rfl⟩ | ⟨i, -, -, -, rfl⟩ | ⟨i, -, -, -, rfl⟩ := stageCheck_cases h <;> rfl
  · simp only [Host.Outcome.next.injEq] at h
    subst h
    obtain ⟨-, -, e⟩ | ⟨-, -, e⟩ | ⟨-, -, e⟩ | ⟨-, -, e⟩ | e := stageParse_cases s <;> rw [e] <;> rfl
  · simp only [Host.Outcome.next.injEq] at h
    subst h
    obtain ⟨-, e⟩ | e | e | e | ⟨-, e⟩ := stageDispatch_cases s <;> rw [e] <;> rfl
  · simp only [Host.Outcome.next.injEq] at h
    subst h
    obtain ⟨-, e⟩ | ⟨d, -, e⟩ := stageHexdec_cases s <;> rw [e] <;> rfl
  · obtain ⟨e, -, rfl⟩ | ⟨n, form, -, -, rfl⟩ := stageKeylen_cases h <;> rfl
  · simp only [Host.Outcome.next.injEq] at h
    subst h
    rfl
  · obtain ⟨-, hb⟩ | ⟨r, -, rfl⟩ | ⟨-, rfl⟩ | ⟨z, -, rfl⟩ := stageKeyagree_cases h
    · obtain ⟨e, -, rfl⟩ | ⟨-, -, rfl⟩ | ⟨f, pt, -, -, -, -, rfl⟩ := beginAgreement_cases hb <;> rfl
    all_goals rfl
  · obtain ⟨-, -, rfl⟩ | ⟨-, -, rfl⟩ | ⟨r, -, rfl⟩ | ⟨z, -, rfl⟩ := stageKdf_cases h <;> rfl
  · obtain ⟨-, rfl⟩ | ⟨r, -, rfl⟩ | ⟨t, -, -, rfl⟩ | ⟨t, -, -, rfl⟩ := stageMac_cases h <;> rfl
  · obtain ⟨-, rfl⟩ | ⟨r, -, rfl⟩ | ⟨z, -, rfl⟩ := stageDecrypt_cases h <;> rfl
  · simp only [Host.Outcome.next.injEq] at h
    subst h
    rfl
  · simp only [Host.Outcome.next.injEq] at h
    subst h
    unfold stageAssemble
    obtain ⟨-, e⟩ | ⟨-, e⟩ := emitChecked_cases _ _ <;> rw [e] <;> rfl
  · exact absurd ‹_› hc
  · obtain ⟨e, -, rfl⟩ | ⟨-, rfl⟩ | ⟨o, -, rfl⟩ := stageAux_cases h <;> rfl

/-- COMMIT is the completion transition, with ZEROIZE's clearing within it (R220, R245). -/
theorem sequencerMove_commit {s : State} (h : s.stage = .commit) : sequencerMove s = .next (stageCommit s) := by
  simp [sequencerMove, h]

theorem stageCommit_of_ne {s : State} (h : s.cmd ≠ some .zeroize) :
    stageCommit s = s.complete s.scratch.pending := by
  simp [stageCommit, h]

theorem stageCommit_of_zeroize {s : State} (h : s.cmd = some .zeroize) :
    stageCommit s = s.clearStorage.complete s.scratch.pending := by
  simp [stageCommit, h]

/-- An answer changes only the port, and only where a request is outstanding (R14). -/
theorem engineMove_cases (s : State) :
    (∃ r, s.port = .requested r ∧ engineMove s = s.deliver (engineAnswer r)) ∨
      ((∀ r, s.port ≠ .requested r) ∧ engineMove s = s) := by
  unfold engineMove
  split
  · exact .inl ⟨_, ‹_›, rfl⟩
  · exact .inr ⟨by simp_all, rfl⟩
  · exact .inr ⟨by simp_all, rfl⟩

/-- An own move is an answer where a request is outstanding, else a move of the sequencer. -/
theorem ownMove_cases (s : State) :
    (∃ r, s.port = .requested r ∧ ownMove s = .next (s.deliver (engineAnswer r))) ∨
      ((∀ r, s.port ≠ .requested r) ∧ ownMove s = sequencerMove s) := by
  unfold ownMove engineMove
  split
  · rename_i r e
    exact .inl ⟨r, e, rfl⟩
  · exact .inr ⟨by simp_all, rfl⟩
  · exact .inr ⟨by simp_all, rfl⟩

/-- Only the two key-agreement engines can fail (R15 to R19). -/
theorem engineAnswer_fail {r : Request} (h : engineAnswer r = .fail) :
    (∃ k u, r = .x25519 k u) ∨ ∃ d x y, r = .p256SmulX d x y := by
  cases r with
  | x25519 k u => exact .inl ⟨k, u, rfl⟩
  | p256SmulX d x y => exact .inr ⟨d, x, y, rfl⟩
  | sha256 m => simp [engineAnswer, answerSha256] at h
  | hmacSha256 k m => simp [engineAnswer, answerHmacSha256] at h
  | aes128Ctr k icb c => simp [engineAnswer, answerAes128Ctr] at h

/-! ## Ends of a command -/

/-- From COMMIT one move completes the command. -/
theorem settle_commit {s : State} (h : s.stage = .commit) (hp : s.port = .idle) :
    settle 1 s = .next (stageCommit s) := by
  rw [settle_succ 0 (ownMove_of_port_idle hp ▸ sequencerMove_commit h)]
  rfl

/-- A failure completes in two moves, with its code and the KIND so far (R260). -/
theorem settle_fail {s s' : State} {e : ResultCode} (h : ownMove s = .next (s'.raiseFail e)) (he : e ≠ .ok)
    (hc : s'.cmd ≠ some .zeroize) : settle 2 s = .next (s'.complete (failed e s'.scratch.pending.kind)) := by
  rw [settle_succ 1 h, settle_commit (by simp) (by simp), stageCommit_of_ne (by simpa using hc)]
  rw [complete_of_failure _ (by simpa using he)]
  rfl

/-- A result completes in two moves (R220). -/
theorem settle_emit {s s' : State} {out : Bytes} (h : ownMove s = .next (s'.emit out)) (hp : s'.port = .idle)
    (hc : s'.cmd ≠ some .zeroize) :
    settle 2 s = .next (s'.complete { s'.scratch.pending with out := out }) := by
  rw [settle_succ 1 h, settle_commit (by simp) (by simpa), stageCommit_of_ne (by simpa using hc)]
  rfl

end Sys2Proof.Machine
end

