-- ==== Sys2Proof/Laws/Bus.lean ====
section
/-! SUPPORT. What one access of the host, one event and one step can do. -/

namespace Sys2Proof.Machine

theorem windowOffset_add {p : Params} {off : Nat} (h : off < 0x1000) :
    windowOffset p (p.baseAddr + off) = some off := by
  unfold windowOffset Config.windowSize
  rw [if_pos (by omega)]
  simp

theorem windowOffset_some {p : Params} {addr off : Nat} (h : windowOffset p addr = some off) :
    addr = p.baseAddr + off ∧ off < 0x1000 := by
  unfold windowOffset Config.windowSize at h
  split at h
  · simp only [Option.some.injEq] at h
    omega
  · simp at h

theorem legalAccess_iff (off width : Nat) : legalAccess off width = true ↔ width = 4 ∧ off % 4 = 0 := by
  simp [legalAccess]

/-- A read of the window answers the target's word or ERROR with 0, and changes nothing else (R74, R76). -/
theorem busRead_of_offset {s : State} {addr width off : Nat} (h : windowOffset s.params addr = some off) :
    busRead addr width s =
      .next (s.respond
        (if legalAccess off width then .read .okay (s.readRegister (targetAt s.params off))
         else .read .error 0)) := by
  unfold busRead
  rw [h]
  simp only
  split <;> rfl

/-- A write of the window acts on its target, or is answered ERROR and does nothing (R74). -/
theorem busWrite_of_offset {s : State} {addr width off : Nat} (v : Word)
    (h : windowOffset s.params addr = some off) :
    busWrite addr width v s =
      .next
        (if legalAccess off width then (s.writeRegister (targetAt s.params off) v).respond (.write .okay)
         else s.respond (.write .error)) := by
  unfold busWrite
  rw [h]
  simp only
  split <;> rfl

/-- What a read can be. -/
theorem busRead_cases {s s' : State} {addr width : Nat} (h : busRead addr width s = .next s') :
    ∃ off r, windowOffset s.params addr = some off ∧ s' = s.respond r := by
  unfold busRead at h
  split at h
  · simp at h
  · rename_i off e
    split at h <;> exact ⟨off, _, e, by simpa using h.symm⟩

/-- What a write can be: answered ERROR, or acting on its target. -/
theorem busWrite_cases {s s' : State} {addr width : Nat} {v : Word} (h : busWrite addr width v s = .next s') :
    ∃ off, windowOffset s.params addr = some off ∧
      (((width ≠ 4 ∨ off % 4 ≠ 0) ∧ s' = s.respond (.write .error)) ∨
        (width = 4 ∧ off % 4 = 0 ∧
          s' = (s.writeRegister (targetAt s.params off) v).respond (.write .okay))) := by
  unfold busWrite at h
  split at h
  · simp at h
  · rename_i off e
    refine ⟨off, e, ?_⟩
    split at h
    · rename_i hl
      rw [legalAccess_iff] at hl
      exact .inr ⟨hl.1, hl.2, by simpa using h.symm⟩
    · rename_i hl
      rw [legalAccess_iff] at hl
      exact .inl ⟨by omega, by simpa using h.symm⟩

/-- What a write to a target can do: nothing, OVERRUN while busy, a STATUS write at any time, or one of the
seven effects on an idle block (R76, R300). -/
theorem writeRegister_cases (s : State) (t : Target) (v : Word) :
    ((t = .id ∨ t = .version ∨ t = .outLen ∨ t = .reserved ∨ ∃ i, t = .outBuf i) ∧ s.writeRegister t v = s) ∨
      (s.busy = true ∧ s.writeRegister t v = s.setOverrun) ∨
      (t = .status ∧ s.writeRegister t v = s.writeStatus v) ∨
      (s.busy = false ∧
        ((t = .ctrl ∧ s.writeRegister t v = s.writeCtrl v) ∨
          (t = .cmd ∧ s.writeRegister t v = s.accept (decodeWord v)) ∨
          (t = .inLen ∧ s.writeRegister t v = s.writeInLen v) ∨
          (t = .keyctl ∧ s.writeRegister t v = s.writeKeyctl v) ∨
          (∃ w, t = .keyA w ∧ s.writeRegister t v = s.writeKeyA w v) ∨
          (∃ w, t = .keyB w ∧ s.writeRegister t v = s.writeKeyB w v) ∨
          ∃ i, t = .inBuf i ∧ s.writeRegister t v = s.writeInBuf i v)) := by
  cases t <;> simp only [State.writeRegister, State.unlessBusy] <;> cases s.busy <;> simp

/-- A target that an arm does not name comes from the arms after it. -/
theorem ite_target {c : Prop} [Decidable c] {a b t : Target} (hne : a ≠ t) (h : (if c then a else b) = t) :
    ¬c ∧ b = t := by
  split at h
  · exact absurd h hne
  · exact ⟨‹_›, h⟩

/-- What a word-aligned offset names, read backwards: the buffer words lie within the buffers (R32, R45, R46). -/
theorem targetAt_inBuf {p : Params} {off i : Nat} (h : targetAt p off = .inBuf i) :
    off = 0x400 + i ∧ i < p.inBufSize := by
  unfold targetAt Config.inBufBase Config.outBufBase at h
  obtain ⟨-, h⟩ := ite_target (by simp) h
  obtain ⟨-, h⟩ := ite_target (by simp) h
  obtain ⟨-, h⟩ := ite_target (by simp) h
  obtain ⟨-, h⟩ := ite_target (by simp) h
  obtain ⟨-, h⟩ := ite_target (by simp) h
  obtain ⟨-, h⟩ := ite_target (by simp) h
  obtain ⟨-, h⟩ := ite_target (by simp) h
  obtain ⟨-, h⟩ := ite_target (by simp) h
  obtain ⟨-, h⟩ := ite_target (by simp) h
  obtain ⟨-, h⟩ := ite_target (by simp) h
  split at h
  · simp only [Target.inBuf.injEq] at h
    omega
  · obtain ⟨-, h⟩ := ite_target (by simp) h
    simp at h

theorem targetAt_keyA {p : Params} {off w : Nat} (h : targetAt p off = .keyA w) :
    0x040 ≤ off ∧ off < 0x060 ∧ w = (off - 0x040) / 4 := by
  unfold targetAt at h
  obtain ⟨-, h⟩ := ite_target (by simp) h
  obtain ⟨-, h⟩ := ite_target (by simp) h
  obtain ⟨-, h⟩ := ite_target (by simp) h
  obtain ⟨-, h⟩ := ite_target (by simp) h
  obtain ⟨-, h⟩ := ite_target (by simp) h
  obtain ⟨-, h⟩ := ite_target (by simp) h
  obtain ⟨-, h⟩ := ite_target (by simp) h
  obtain ⟨-, h⟩ := ite_target (by simp) h
  split at h
  · simp only [Target.keyA.injEq] at h
    omega
  · obtain ⟨-, h⟩ := ite_target (by simp) h
    obtain ⟨-, h⟩ := ite_target (by simp) h
    obtain ⟨-, h⟩ := ite_target (by simp) h
    simp at h

theorem targetAt_keyB {p : Params} {off w : Nat} (h : targetAt p off = .keyB w) :
    0x060 ≤ off ∧ off < 0x080 ∧ w = (off - 0x060) / 4 := by
  unfold targetAt at h
  obtain ⟨-, h⟩ := ite_target (by simp) h
  obtain ⟨-, h⟩ := ite_target (by simp) h
  obtain ⟨-, h⟩ := ite_target (by simp) h
  obtain ⟨-, h⟩ := ite_target (by simp) h
  obtain ⟨-, h⟩ := ite_target (by simp) h
  obtain ⟨-, h⟩ := ite_target (by simp) h
  obtain ⟨-, h⟩ := ite_target (by simp) h
  obtain ⟨-, h⟩ := ite_target (by simp) h
  obtain ⟨-, h⟩ := ite_target (by simp) h
  split at h
  · simp only [Target.keyB.injEq] at h
    omega
  · obtain ⟨-, h⟩ := ite_target (by simp) h
    obtain ⟨-, h⟩ := ite_target (by simp) h
    simp at h

theorem targetAt_keyctl {p : Params} {off : Nat} (h : targetAt p off = .keyctl) : off = 0x01C := by
  unfold targetAt at h
  obtain ⟨-, h⟩ := ite_target (by simp) h
  obtain ⟨-, h⟩ := ite_target (by simp) h
  obtain ⟨-, h⟩ := ite_target (by simp) h
  obtain ⟨-, h⟩ := ite_target (by simp) h
  obtain ⟨-, h⟩ := ite_target (by simp) h
  obtain ⟨-, h⟩ := ite_target (by simp) h
  obtain ⟨-, h⟩ := ite_target (by simp) h
  split at h
  · assumption
  · obtain ⟨-, h⟩ := ite_target (by simp) h
    obtain ⟨-, h⟩ := ite_target (by simp) h
    obtain ⟨-, h⟩ := ite_target (by simp) h
    obtain ⟨-, h⟩ := ite_target (by simp) h
    simp at h

/-! ## Steps -/

/-- With nothing due from outside a step is a move of the block's own. -/
theorem step_of_agenda_nil {s : State} (h : s.agenda = []) : step s = ownMove s := by
  unfold step
  rw [h]

/-- Otherwise it is the next event of the agenda. -/
theorem step_of_agenda_cons {s : State} {e : Event} {rest : List Event} (h : s.agenda = e :: rest) :
    step s = happen e (s.setAgenda rest) := by
  unfold step
  rw [h]

theorem step_cases (s : State) :
    (s.agenda = [] ∧ step s = ownMove s) ∨
      ∃ e rest, s.agenda = e :: rest ∧ step s = happen e (s.setAgenda rest) := by
  cases h : s.agenda with
  | nil => exact .inl ⟨rfl, step_of_agenda_nil h⟩
  | cons e rest => exact .inr ⟨e, rest, rfl, step_of_agenda_cons h⟩

/-- Every meaning is its command run to its end. -/
theorem exec_eq_runCommand (i : Instr) (s : State) : exec i s = runCommand i s := by
  cases i <;> rfl

/-- What a step that goes on has done. -/
theorem step_next_cases {s s' : State} (h : step s = .next s') :
    (∃ r, s.agenda = [] ∧ s.port = .requested r ∧ s' = s.deliver (engineAnswer r)) ∨
      (s.agenda = [] ∧ sequencerMove s = .next s') ∨
      ∃ rest,
        (s.agenda = .sequencerMove :: rest ∧ sequencerMove (s.setAgenda rest) = .next s') ∨
          (s.agenda = .engineMove :: rest ∧ s' = engineMove (s.setAgenda rest)) ∨
          (s.agenda = .lateAnswer :: rest ∧ s' = (s.setAgenda rest).discardLate) ∨
          (s.agenda = .reset :: rest ∧ s' = (s.setAgenda rest).assertReset) ∨
          (∃ v, s.agenda = .run v :: rest ∧ runCommand (decodeWord v) (s.setAgenda rest) = .next s') ∨
          (∃ addr width, s.agenda = .read addr width :: rest ∧ busRead addr width (s.setAgenda rest) = .next s') ∨
          ∃ addr width v, s.agenda = .write addr width v :: rest ∧
            busWrite addr width v (s.setAgenda rest) = .next s' := by
  rcases step_cases s with ⟨ha, e⟩ | ⟨ev, rest, ha, e⟩ <;> rw [e] at h
  · rcases ownMove_cases s with ⟨r, hp, e2⟩ | ⟨-, e2⟩ <;> rw [e2] at h
    · exact .inl ⟨r, ha, hp, by simpa using h.symm⟩
    · exact .inr (.inl ⟨ha, h⟩)
  · refine .inr (.inr ⟨rest, ?_⟩)
    cases ev with
    | read a w => exact .inr (.inr (.inr (.inr (.inr (.inl ⟨a, w, ha, h⟩)))))
    | write a w v => exact .inr (.inr (.inr (.inr (.inr (.inr ⟨a, w, v, ha, h⟩)))))
    | run v => exact .inr (.inr (.inr (.inr (.inl ⟨v, ha, by rw [← exec_eq_runCommand]; exact h⟩))))
    | sequencerMove => exact .inl ⟨ha, h⟩
    | engineMove => exact .inr (.inl ⟨ha, by simpa [happen] using h.symm⟩)
    | lateAnswer => exact .inr (.inr (.inl ⟨ha, by simpa [happen] using h.symm⟩))
    | reset => exact .inr (.inr (.inr (.inl ⟨ha, by simpa [happen] using h.symm⟩)))

/-- A run is its first step, where that goes on, and then the rest of the run. -/
theorem run_succ_of_next {s t : State} (n : Nat) (h : step s = .next t) :
    Sys2Proof.core.run (n + 1) s = Sys2Proof.core.run n t := by
  have h' : Sys2Proof.core.step s = .next t := h
  simp only [Host.Core.run, h']

/-- While another command runs a CMD write only sets OVERRUN (R300). -/
theorem runCommand_of_busy {s : State} (i : Instr) (h : s.busy = true) :
    runCommand i s = .next (s.setOverrun.respond (.write .okay)) := by
  simp [runCommand, h]

/-- An idle block accepts the command and moves until it is idle again. -/
theorem runCommand_of_idle {s : State} (i : Instr) (h : s.busy = false) :
    runCommand i s = settle commandMoves ((s.accept i).respond (.write .okay)) := by
  simp [runCommand, h]

/-- A property of the state that every kind of update keeps is kept by every step. -/
theorem step_keeps {P : State → Prop} (hag : ∀ s l, P s → P (s.setAgenda l))
    (hresp : ∀ s r, P s → P (s.respond r)) (hmove : ∀ s s', P s → sequencerMove s = .next s' → P s')
    (heng : ∀ s r, P s → s.port = .requested r → P (s.deliver (engineAnswer r)))
    (hover : ∀ s, P s → P s.setOverrun) (hstat : ∀ s v, P s → P (s.writeStatus v))
    (hctrl : ∀ s v, P s → s.busy = false → P (s.writeCtrl v))
    (hacc : ∀ s i, P s → s.busy = false → P (s.accept i))
    (hinl : ∀ s v, P s → s.busy = false → P (s.writeInLen v))
    (hkc : ∀ s v, P s → s.busy = false → P (s.writeKeyctl v))
    (hka : ∀ s w v, P s → s.busy = false → P (s.writeKeyA w v))
    (hkb : ∀ s w v, P s → s.busy = false → P (s.writeKeyB w v))
    (hib : ∀ s i v, P s → s.busy = false → i % 4 = 0 → i < s.params.inBufSize → P (s.writeInBuf i v))
    (hlate : ∀ s, P s → P s.discardLate) (hres : ∀ s, P s → P s.assertReset)
    {s s' : State} (hs : P s) (h : step s = .next s') : P s' := by
  have hown : ∀ s s', P s → ownMove s = .next s' → P s' := by
    intro s s' hs h
    rcases ownMove_cases s with ⟨r, hp, e⟩ | ⟨-, e⟩ <;> rw [e] at h
    · simp only [Host.Outcome.next.injEq] at h
      subst h
      exact heng s r hs hp
    · exact hmove s s' hs h
  have hset : ∀ n s s', P s → settle n s = .next s' → P s' := by
    intro n
    induction n with
    | zero => 
      intro s s' hs h
      simp only [settle, Host.Outcome.next.injEq] at h
      exact h ▸ hs
    | succ n ih =>
      intro s s' hs h
      rw [settle] at h
      split at h
      · exact ih _ _ (hown _ _ hs ‹_›) h
      · simp at h
      · simp at h
  obtain ⟨r, -, hp, rfl⟩ | ⟨-, hm⟩ | ⟨rest, h⟩ := step_next_cases h
  · exact heng s r hs hp
  · exact hmove _ _ hs hm
  · have hs' := hag s rest hs
    obtain ⟨-, h⟩ | ⟨-, rfl⟩ | ⟨-, rfl⟩ | ⟨-, rfl⟩ | ⟨v, -, h⟩ | ⟨a, w, -, h⟩ | ⟨a, w, v, -, h⟩ := h
    · exact hmove _ _ hs' h
    · rcases engineMove_cases (s.setAgenda rest) with ⟨r, hp, e⟩ | ⟨-, e⟩ <;> rw [e]
      · exact heng _ r hs' hp
      · exact hs'
    · exact hlate _ hs'
    · exact hres _ hs'
    · cases hb : (s.setAgenda rest).busy with
      | true =>
        rw [runCommand_of_busy _ hb] at h
        simp only [Host.Outcome.next.injEq] at h
        subst h
        exact hresp _ _ (hover _ hs')
      | false =>
        rw [runCommand_of_idle _ hb] at h
        exact hset _ _ _ (hresp _ _ (hacc _ _ hs' hb)) h
    · obtain ⟨off, r, -, rfl⟩ := busRead_cases h
      exact hresp _ _ hs'
    · obtain ⟨off, ho, ⟨-, rfl⟩ | ⟨-, h4, rfl⟩⟩ := busWrite_cases h
      · exact hresp _ _ hs'
      · apply hresp
        generalize s.setAgenda rest = t at *
        obtain ⟨-, e⟩ | ⟨-, e⟩ | ⟨-, e⟩ |
          ⟨hb, ⟨-, e⟩ | ⟨-, e⟩ | ⟨-, e⟩ | ⟨-, e⟩ | ⟨w, -, e⟩ | ⟨w, -, e⟩ | ⟨i, ht, e⟩⟩ :=
            writeRegister_cases t (targetAt t.params off) v <;> rw [e]
        · exact hs'
        · exact hover _ hs'
        · exact hstat _ _ hs'
        · exact hctrl _ _ hs' hb
        · exact hacc _ _ hs' hb
        · exact hinl _ _ hs' hb
        · exact hkc _ _ hs' hb
        · exact hka _ _ _ hs' hb
        · exact hkb _ _ _ hs' hb
        · obtain ⟨h1, h2⟩ := targetAt_inBuf ht
          exact hib _ _ _ hs' hb (by omega) h2

end Sys2Proof.Machine
end

