-- ==== Sys2Proof/Laws/Curve.lean ====
section
/-! SUPPORT. What exponentiation by squaring and the square root of R175 compute. -/

namespace Sys2Proof.Machine

/-- Squaring computes the power, for every exponent that the fuel has bits for. -/
theorem powMod_eq (m : Nat) : ∀ fuel base e, e < 2 ^ fuel → powMod m fuel base e = base ^ e % m := by
  intro fuel
  induction fuel with
  | zero =>
    intro base e h
    obtain rfl : e = 0 := by simpa using h
    simp [powMod]
  | succ fuel ih =>
    intro base e h
    have hsq : (base * base) ^ (e / 2) = base ^ (2 * (e / 2)) := by rw [← pow_two, ← pow_mul]
    simp only [powMod]
    rw [ih _ _ (by omega), ← Nat.pow_mod, hsq]
    split
    · rw [Nat.mul_mod, Nat.mod_mod, ← Nat.mul_mod, ← pow_succ', show 2 * (e / 2) + 1 = e by omega]
    · rw [show 2 * (e / 2) = e by omega]

/-- The exponent of R175 has at most 256 bits. -/
theorem P256.rootExponent_lt : (P256.p + 1) / 4 < 2 ^ 256 := by decide

/-- R175 in its own terms. The candidate is a variable with an equation, so that nothing evaluates the power. -/
theorem P256.sqrtModP_eq {r t : Nat} (h : t = r ^ ((P256.p + 1) / 4) % P256.p) :
    P256.sqrtModP r = if t * t % P256.p = r then some t else none := by
  have hp : powMod P256.p 256 r ((P256.p + 1) / 4) = t :=
    (powMod_eq _ _ _ _ P256.rootExponent_lt).trans h.symm
  unfold P256.sqrtModP
  simp only [hp]

end Sys2Proof.Machine
end

