-- ==== Sys2Proof/Laws/Outcomes.lean ====
section
/-! SUPPORT. Equations and lengths of the pure outcomes, their lengths written as numbers. -/

namespace Sys2Proof.Machine

@[simp] theorem input_length (s : State) : s.input.length = s.inLen.toNat := by simp [State.input]

/-- R153, R154 for Profile A. -/
theorem keyLayout_a (d : Bytes) :
    keyLayout .a d = if d.length < 40 then .error .inputTooShort else .ok (32, none) := rfl

/-- R153 for Profile B with no bytes. -/
theorem keyLayout_b_nil : keyLayout .b [] = .error .inputTooShort := rfl

/-- R153, R154 for Profile B. -/
theorem keyLayout_b_cons (b : Byte) (d : Bytes) :
    keyLayout .b (b :: d) =
      if b = 0x02 ∨ b = 0x03 then
        if (b :: d).length < 41 then .error .inputTooShort else .ok (33, some .compressed)
      else if b = 0x04 then
        if (b :: d).length < 73 then .error .inputTooShort else .ok (65, some .uncompressed)
      else .error .invalidPublicKeyEncoding := rfl

/-- R191 to R202, written out. -/
theorem openCiphertext_eq (z key ct mac : Bytes) :
    openCiphertext z key ct mac =
      if slice (Sha256.hmac (slice (Sha256.digest (z ++ be32 1 ++ key) ++ Sha256.digest (z ++ be32 2 ++ key)) 32 64)
          ct) 0 8 = mac then
        .ok (Aes128.ctr (slice (Sha256.digest (z ++ be32 1 ++ key) ++ Sha256.digest (z ++ be32 2 ++ key)) 0 16)
          (slice (Sha256.digest (z ++ be32 1 ++ key) ++ Sha256.digest (z ++ be32 2 ++ key)) 16 32) ct)
      else .error .macVerificationFailed := rfl

theorem sized_of_le {c : Inputs} {out : Bytes} (k : Kind) (r : Bool) (h : out.length ≤ c.outBufSize) :
    sized c out k r = succeeded out k r := by
  unfold sized
  rw [if_neg (by omega)]

theorem sized_of_lt {c : Inputs} {out : Bytes} (k : Kind) (r : Bool) (h : c.outBufSize < out.length) :
    sized c out k r = failed .lengthError k := by
  unfold sized
  rw [if_pos h]

theorem isImsi_iff (t : Bytes) : isImsi t = true ↔ t = ascii "0" := by simp [isImsi]

/-- R210, R211: two characters for each byte at most. -/
theorem decodeDigits_length_le (t p : Bytes) : (decodeDigits t p).length ≤ 2 * p.length := by
  unfold decodeDigits
  split
  · exact tbcdDigits_length_le p
  · simp

/-- The fields' bytes and the hyphens between them are the bytes that were split (R130). -/
theorem splitFrom_length (cur b : Bytes) :
    ((splitFrom cur b).map List.length).sum + (splitFrom cur b).length = cur.length + b.length + 1 := by
  induction b generalizing cur with
  | nil => simp [splitFrom]
  | cons x t ih =>
    unfold splitFrom
    split
    · have := ih []
      simp only [List.map_cons, List.sum_cons, List.length_cons, List.length_nil] at *
      omega
    · have := ih (cur ++ [x])
      simp only [List.length_append, List.length_cons, List.length_nil] at *
      omega

end Sys2Proof.Machine
end

