-- ==== Sys2Proof/Laws/PerInstr.lean ====
section
/-! SUPPORT. One statement about every command as syntax, proved command by command: the two fields of its
encoding are those of its row (R100, R102). -/

/-- The OPCODE and RSVD fields of a command's word (R100): R102's opcode and 0, or an ILLEGAL word's own. -/
def Sys2Proof.Laws.EncodingFields.Statement (i : Sys2Proof.Instr) : Prop :=
  (Sys2Proof.opcodeField (Sys2Proof.encodeWord i), Sys2Proof.rsvdField (Sys2Proof.encodeWord i)) =
    match i with
    | .deconceal => (0x01, 0)
    | .p256Decompress => (0x02, 0)
    | .p256Compress => (0x03, 0)
    | .tbcdDecode => (0x04, 0)
    | .zeroize => (0x05, 0)
    | .illegal opcode rsvd => (opcode, rsvd)

namespace Sys2Proof.Laws.EncodingFields

theorem deconceal : Statement .deconceal := by rfl

theorem p256Decompress : Statement .p256Decompress := by rfl

theorem p256Compress : Statement .p256Compress := by rfl

theorem tbcdDecode : Statement .tbcdDecode := by rfl

theorem zeroize : Statement .zeroize := by rfl

theorem illegal (opcode : BitVec 8) (rsvd : BitVec 24) : Statement (.illegal opcode rsvd) := by
  simp only [Statement, encodeWord, opcodeField, rsvdField, Prod.mk.injEq]
  constructor
  · ext k h
    simp only [BitVec.getElem_extractLsb', BitVec.getLsbD_append]
    simp [h]
  · ext k h
    simp only [BitVec.getElem_extractLsb', BitVec.getLsbD_append]
    simp [BitVec.getLsbD_eq_getElem h]

end Sys2Proof.Laws.EncodingFields
end

