-- ==== Sys2Proof/Tests/Slice0.lean ====
section
/-! SUPPORT. Tests. Vector names V-… are those of spec/95_test_vectors.md; its values are the expected results.
The second part shows, for every statement with hypotheses, a concrete state and operands that meet them. -/

namespace Sys2Proof.Tests

open Sys2Proof.Machine

-- One theorem after another: each kernel evaluation waits for the theorems before it, in a thread of its own.
set_option Elab.async false

/-! ## Helpers -/

/-- The bytes of a hexadecimal number. -/
def hx (n k : Nat) : Bytes := i2osp n k

/-- The reset state with an input loaded. -/
def loaded (input : Bytes) : State :=
  { State.reset with inLen := BitVec.ofNat 16 input.length, mem := Memory.write [] 0x400 input }

/-- STATUS and the result string after a meaning. -/
def report (r : Result) : Option (Word × Bytes) :=
  match r with
  | .next s => some (s.statusWord, s.output)
  | .fault _ => none
  | .refused _ => none

/-- Whether a result is a next state. -/
def isNext (r : Result) : Bool :=
  match r with
  | .next _ => true
  | .fault _ => false
  | .refused _ => false

/-- The next state of a result. -/
def after (r : Result) : State :=
  match r with
  | .next s => s
  | .fault _ => State.reset
  | .refused _ => State.reset

theorem eq_next_after {r : Result} (h : isNext r = true) : r = .next (after r) := by
  cases r <;> simp [isNext, after] at h ⊢

theorem ready_of {s : State} (h1 : s.params = Params.standard) (h2 : s.stage = .idle) : s.ready :=
  ⟨by rw [h1]; decide, by simp [State.busy, h2]⟩

theorem loaded_ready (b : Bytes) : (loaded b).ready := ready_of rfl rfl

/-- A SUCI of MCC 001 and MNC 01 with a scheme and a scheme output. -/
def suci (scheme : String) (out : Bytes) : Bytes :=
  ascii "suci-0-001-01-0000-" ++ ascii scheme ++ ascii "-0-" ++ out

def gx : Nat := 0x6b17d1f2e12c4247f8bce6e563a440f277037d812deb33a0f4a13945d898c296
def gy : Nat := 0x4fe342e2fe1a7f9b8ee7eb4a7c0f9e162bce33576b315ececbb6406837bf51f5

/-- `02 ‖ x`, `03 ‖ x` and `04 ‖ x ‖ y`. -/
def key02 (x : Nat) : Bytes := 0x02 :: i2osp x 32
def key03 (x : Nat) : Bytes := 0x03 :: i2osp x 32
def key04 (x y : Nat) : Bytes := 0x04 :: (i2osp x 32 ++ i2osp y 32)

/-! ## WellFormed smoke: R101 makes each of these words another command -/

theorem test_illegal_deconceal_refused : ¬ (Instr.illegal 0x01 0).WellFormed := by decide
theorem test_illegal_decompress_refused : ¬ (Instr.illegal 0x02 0).WellFormed := by decide
theorem test_illegal_compress_refused : ¬ (Instr.illegal 0x03 0).WellFormed := by decide
theorem test_illegal_tbcd_refused : ¬ (Instr.illegal 0x04 0).WellFormed := by decide
theorem test_illegal_zeroize_refused : ¬ (Instr.illegal 0x05 0).WellFormed := by decide
theorem test_illegal_rsvd_admitted : (Instr.illegal 0x01 1).WellFormed := by decide

/-! ## Decoding: the words of R102, written out bit by bit -/

theorem test_decode_deconceal : decodeWord 0b00000000000000000000000000000001 = .deconceal := by decide
theorem test_decode_decompress : decodeWord 0b00000000000000000000000000000010 = .p256Decompress := by decide
theorem test_decode_compress : decodeWord 0b00000000000000000000000000000011 = .p256Compress := by decide
theorem test_decode_tbcd : decodeWord 0b00000000000000000000000000000100 = .tbcdDecode := by decide
theorem test_decode_zeroize : decodeWord 0b00000000000000000000000000000101 = .zeroize := by decide
theorem test_decode_illegal_opcode :
    decodeWord 0b00000000000000000000000000000110 = .illegal 0x06 0 := by decide
theorem test_decode_illegal_rsvd :
    decodeWord 0b00000000000000000000000100000001 = .illegal 0x01 0x000001 := by decide
theorem test_decode_bytes :
    decode [0x05, 0x00, 0x00, 0x00, 0xAA] = .ok (.zeroize, [0xAA]) := by rfl
theorem test_decode_truncated : decode [0x05, 0x00, 0x00] = .error .truncated := by rfl
theorem test_decode_table_word : decodeTableWord 32 0x00000003 = some .p256Compress := by decide
theorem test_lanes : lanesOf 0x69637573 = ascii "suci" := by decide

/-! ## The engines, on the vectors V-C4-A and V-C4-B -/

def keyA : Bytes := hx 0xc53c22208b61860b06c62e5406a7b330c2b577aa5558981510d128247d38bd1d 32
def ephA : Bytes := hx 0xb2e92f836055a255837debf850b528997ce0201cb82adfe4be1f587d07d8457d 32
def secretA : Bytes := hx 0x028ddf890ec83cdf163947ce45f6ec1a0e3070ea5fe57e2b1f05139f3e82422a 32
def xB : Nat := 0x9aab8376597021e855679a9778ea0b67396e68c66df32c0f41e9acca2da9b9d1
def yB : Nat := 0xd1f44ea1c87aa7478b954537bde79951e748a43294a4f4cf86eaff1789c9c81f
def secretB : Nat := 0x6c7e6518980025b982fbb2ff746e3c2e85a196d252099a7ad23ea7b4c0959cae

theorem test_x25519 : X25519.value keyA ephA = secretA := by decide +kernel
theorem test_digest :
    Sha256.digest (kdfInput secretA ephA 1) =
      hx 0x2ba342cabd2b3b1e5e4e890da11b65f6e2622cb0cdd08204e721c8ea9b95a7c6 32 := by decide +kernel
theorem test_hmac :
    Sha256.hmac (hx 0xd9846966fb7cf5fcf11266c5957dea60b83fff2b7c940690a4bfe57b1eb52bd2 32) (hx 0xcb02352410 5) =
      hx 0xcddd9e730ef3fa872aad1da9e2f4de92df4789eded6f788764a6c8671b64ee5f 32 := by decide +kernel
theorem test_ctr :
    Aes128.ctr (hx 0x2ba342cabd2b3b1e5e4e890da11b65f6 16) (hx 0xe2622cb0cdd08204e721c8ea9b95a7c6 16)
      (hx 0xcb02352410 5) = hx 0x00012080f6 5 := by decide +kernel
theorem test_recover_odd : P256.recover (key03 xB) = some (xB, yB) := by decide +kernel
theorem test_recover_even :
    P256.recover (key02 gx) =
      some (gx, 0xb01cbd1c01e58065711814b583f061e9d431cca994cea1313449bf97c840ae0a) := by decide +kernel
theorem test_recover_no_root : P256.recover (key02 1) = none := by decide +kernel
theorem test_recover_not_reduced : P256.recover (key02 P256.p) = none := by decide +kernel
theorem test_smul :
    P256.scalarMulX 0xf1ab1074477ebcc7f554ea1c5fc368b1616730155e0041ac447d6301975fecda xB yB = some secretB := by
  decide +kernel
theorem test_smul_order : P256.scalarMulX P256.n gx gy = none := by decide +kernel

/-! ## Profiles A and B after key agreement: V-C4-A, V-C4-B, and V-MD-1 with one bit of the MAC changed -/

theorem test_open_profile_a :
    openCiphertext secretA ephA (hx 0xcb02352410 5) (hx 0xcddd9e730ef3fa87 8) = .ok (hx 0x00012080f6 5) := by
  have h : slice (Sha256.hmac (slice (derivedBuffer secretA ephA) 32 64) (hx 0xcb02352410 5)) 0 8 =
      hx 0xcddd9e730ef3fa87 8 := by decide +kernel
  have h2 : Aes128.ctr (slice (derivedBuffer secretA ephA) 0 16) (slice (derivedBuffer secretA ephA) 16 32)
      (hx 0xcb02352410 5) = hx 0x00012080f6 5 := by decide +kernel
  simp only [openCiphertext, h, h2, if_true]
theorem test_open_profile_b :
    slice (Sha256.hmac (slice (derivedBuffer (i2osp secretB 32) (key03 xB)) 32 64) (hx 0x46a33fc271 5)) 0 8 =
      hx 0x6ac7dae96aa30a4d 8 := by decide +kernel
theorem test_mac_one_bit : macDiff (hx 0xcddd9e730ef3fa87 8) (hx 0xcddd9e730ef3fa86 8) ≠ 0 := by decide
theorem test_digits_imsi : decodeDigits (ascii "0") (hx 0x00012080f6 5) = ascii "001002086" := by decide
theorem test_digits_raw : decodeDigits (ascii "1") (hx 0x00012080f6 5) = ascii "00012080f6" := by decide

/-! ## Commands: STATUS and the result string -/

/-- V-PD-8. -/
theorem test_deconceal_null :
    report (exec .deconceal (loaded (suci "0" (ascii "0123456789")))) =
      some (0x00020002, ascii "imsi-001010123456789") := by decide +kernel

/-- V-PD-3, by either walk of a passthrough (log 28). -/
theorem test_deconceal_passthrough :
    ∀ via : Bool,
      report (exec .deconceal
        { loaded (ascii "imsi") with params := { Params.standard with passthroughViaDispatch := via } }) =
        some (0x00010002, ascii "imsi") := by decide +kernel

/-- V-KA-11: the key slot is checked before the point is recovered. -/
theorem test_deconceal_key_first :
    report (exec .deconceal (loaded (suci "2" (hexLower (key02 1 ++ List.replicate 8 0))))) =
      some (0x00041002, []) := by decide +kernel

/-- V-AX-1. -/
theorem test_decompress : report (exec .p256Decompress (loaded (key03 gx))) = some (0x00050002, key04 gx gy) := by
  decide +kernel

/-- V-AX-6. -/
theorem test_decompress_length :
    report (exec .p256Decompress (loaded (key03 gx ++ [0]))) = some (0x00051102, []) := by decide +kernel

/-- V-AX-2. -/
theorem test_compress : report (exec .p256Compress (loaded (key04 gx gy))) = some (0x00050002, key03 gx) := by
  decide +kernel

/-- V-AX-10. -/
theorem test_compress_off_curve :
    report (exec .p256Compress (loaded (key04 gx (gy + 1)))) = some (0x00050702, []) := by decide +kernel

/-- V-TB-1. -/
theorem test_tbcd : report (exec .tbcdDecode (loaded (hx 0x00012080f6 5))) = some (0x00050002, ascii "001002086") := by
  decide +kernel

/-- V-TB-2: only one filler is stripped. -/
theorem test_tbcd_one_filler : report (exec .tbcdDecode (loaded [0xFF])) = some (0x00050002, ascii "f") := by
  decide +kernel

/-- V-CK-7. -/
theorem test_zeroize :
    report (exec .zeroize { loaded [] with inLen := 0xFFFF, slotA := { KeySlot.cleared with valid := true } }) =
      some (0x00050002, []) := by decide +kernel

/-- V-CK-6. -/
theorem test_illegal : report (exec (decodeWord 0x00000101) (loaded (ascii "imsi"))) = some (0x00001202, []) := by
  decide +kernel

/-! ## The bus -/

/-- What an access answers. -/
def answered (r : Result) : Option Response := (after r).response

/-- V-BS-1. -/
theorem test_read_id : answered (busRead 0x000 4 State.reset) = some (.read .okay 0x53554349) := by decide

/-- V-BS-4. -/
theorem test_read_misaligned : answered (busRead 0x002 4 State.reset) = some (.read .error 0) := by decide

/-- V-BS-10. -/
theorem test_keyctl_clear_wins :
    (after (busWrite 0x01C 4 0x00010300 State.reset)).readRegister .keyctl = 0x00000002 := by decide +kernel

/-- V-BS-11 and V-BS-12. -/
theorem test_in_len_masked :
    (after (busWrite 0x014 4 0x12345678 State.reset)).readRegister .inLen = 0x00005678 := by decide +kernel
theorem test_ctrl_masked :
    (after (busWrite 0x008 4 0xffffffff State.reset)).readRegister .ctrl = 0x00000003 := by decide +kernel

/-- P1's second IN_BUF word: "-0-0". -/
theorem test_in_buf_lanes :
    (after (busWrite 0x404 4 0x302d302d State.reset)).inByte 5 = 0x30 := by decide +kernel

/-- The first step after reset runs the table's command. -/
theorem test_fetch_word : report (step (State.reset.withFetchWord 32 0x00000006)) = some (0x00001202, []) := by
  decide +kernel

/-! ## Witnesses: encoding and steps -/

theorem test_witness_DecodeOfEncodeIsIdentity :
    Instr.deconceal.WellFormed ∧ (Instr.illegal 0x00 0).WellFormed ∧ (Instr.illegal 0x05 0xFFFFFF).WellFormed := by
  decide

theorem test_witness_DecodingFollowsTheFields :
    (0x00000101 : Word).extractLsb' 8 24 ≠ 0 ∧ (0x00000001 : Word).extractLsb' 8 24 = 0 ∧
    (0x00000001 : Word).extractLsb' 0 8 = 1 ∧ (0x00000002 : Word).extractLsb' 0 8 = 2 ∧
    (0x00000003 : Word).extractLsb' 0 8 = 3 ∧ (0x00000004 : Word).extractLsb' 0 8 = 4 ∧
    (0x00000005 : Word).extractLsb' 0 8 = 5 ∧ (0x00000000 : Word).extractLsb' 0 8 = 0 ∧
    5 < ((0x00000006 : Word).extractLsb' 0 8).toNat := by decide

theorem test_witness_IllegalCommandCompletes :
    (0x00000101 : Word).extractLsb' 8 24 ≠ 0 ∧ (0x00000000 : Word).extractLsb' 0 8 = 0 ∧
    5 < ((0x000000FF : Word).extractLsb' 0 8).toNat := by decide

theorem test_witness_RunStepExecutesDecodedCommand :
    (State.reset.withFetchWord 32 0x00000001).agenda = .run 0x00000001 :: [] := by rfl

/-! ## Witnesses: commands -/

/-- A block with a command running. -/
def running : State := State.reset.accept .deconceal

theorem test_witness_idle : State.reset.busy = false := by decide

theorem test_witness_busy : running.busy = true := by decide

/-- Two states with one input that differ in their stored result and earlier status. -/
theorem test_witness_OutcomeDependsOnInputsAlone :
    (loaded [0xF1]).ready ∧
    (State.ready { loaded [0xF1] with
      status := { done := true, overrun := true, result := .ok, kind := .null, raw := true }
      outLen := 3, agenda := [.reset] }) ∧
    (loaded [0xF1]).inputs =
      (State.inputs { loaded [0xF1] with
        status := { done := true, overrun := true, result := .ok, kind := .null, raw := true }
        outLen := 3, agenda := [.reset] }) :=
  ⟨ready_of rfl rfl, ready_of rfl rfl, rfl⟩

theorem test_witness_OversizedInputCompletesWithLengthError :
    (State.ready { loaded [] with inLen := 1025 }) ∧
    (loaded []).params.inBufSize < ((1025 : BitVec 16)).toNat :=
  ⟨ready_of rfl rfl, by decide⟩

theorem test_witness_ready : State.reset.ready := ready_of rfl rfl

theorem test_witness_TbcdDecodeResult :
    (State.ready { loaded [] with inLen := 512 }) ∧ ((512 : BitVec 16)).toNat ≤ (loaded []).params.inBufSize ∧
    (State.ready { loaded [] with inLen := 513 }) ∧ ((513 : BitVec 16)).toNat ≤ (loaded []).params.inBufSize ∧
    (State.ready { loaded [] with inLen := 1024 }) ∧ ((1024 : BitVec 16)).toNat ≤ (loaded []).params.inBufSize ∧
    (loaded []).params.outBufSize = 1024 :=
  ⟨ready_of rfl rfl, by decide, ready_of rfl rfl, by decide, ready_of rfl rfl, by decide, rfl⟩

theorem test_witness_P256DecompressResult :
    (loaded (key03 gx)).ready ∧ (loaded (key03 gx)).inLen.toNat ≤ (loaded (key03 gx)).params.inBufSize :=
  ⟨ready_of rfl rfl, by decide +kernel⟩

theorem test_witness_P256CompressResult :
    (loaded (key04 gx gy)).ready ∧ (loaded (key04 gx gy)).inLen.toNat ≤ (loaded (key04 gx gy)).params.inBufSize :=
  ⟨ready_of rfl rfl, by decide +kernel⟩

theorem test_witness_PassthroughReturnsInput :
    (loaded (ascii "imsi")).ready ∧ (loaded (ascii "imsi")).inLen.toNat ≤ 1024 ∧
    (splitFields (loaded (ascii "imsi")).input).headD [] = ascii "imsi" ∧
    (loaded (ascii "nai-user@example")).inLen.toNat ≤ 1024 ∧
    (splitFields (loaded (ascii "nai-user@example")).input).headD [] = ascii "nai" :=
  ⟨ready_of rfl rfl, by decide +kernel, by decide +kernel, by decide +kernel, by decide +kernel⟩

/-- The empty input, and a SUCI of five fields. -/
theorem test_witness_ParserFailures :
    ((loaded []).ready ∧ (loaded []).inLen.toNat ≤ 1024 ∧ (splitFields (loaded []).input).headD [] ≠ ascii "imsi" ∧
      (splitFields (loaded []).input).headD [] ≠ ascii "nai" ∧
      (splitFields (loaded []).input).headD [] ≠ ascii "suci") ∧
    ((loaded (ascii "suci-0-001-01-0000")).ready ∧ (loaded (ascii "suci-0-001-01-0000")).inLen.toNat ≤ 1024 ∧
      (splitFields (loaded (ascii "suci-0-001-01-0000")).input).headD [] = ascii "suci" ∧
      (splitFields (loaded (ascii "suci-0-001-01-0000")).input).length = 5) :=
  ⟨⟨ready_of rfl rfl, by decide, by decide, by decide, by decide⟩,
    ⟨ready_of rfl rfl, by decide +kernel, by decide +kernel, by decide +kernel⟩⟩

/-- The bound fields of an input. -/
def fieldsOf (b : Bytes) : Suci := suciOf (splitFields (loaded b).input)

/-- Whether an input is a SUCI of a scheme whose scheme output decodes to `d`. -/
def holdsScheme (b : Bytes) (scheme : String) (d : Option Bytes) : Bool :=
  decide ((loaded b).inLen.toNat ≤ 1024) && ((splitFields (loaded b).input).headD [] == ascii "suci") &&
    decide (6 ≤ (splitFields (loaded b).input).length) && ((fieldsOf b).protectionScheme == ascii scheme) &&
    (hexDecode (fieldsOf b).schemeOutput == d)

theorem of_holdsScheme {b : Bytes} {scheme : String} {d : Option Bytes} (h : holdsScheme b scheme d = true) :
    (loaded b).ready ∧ (loaded b).holdsSuci (fieldsOf b) ∧ (fieldsOf b).protectionScheme = ascii scheme ∧
      hexDecode (fieldsOf b).schemeOutput = d := by
  simp only [holdsScheme, Bool.and_eq_true, decide_eq_true_eq, beq_iff_eq] at h
  exact ⟨loaded_ready b, ⟨h.1.1.1.1, h.1.1.1.2, h.1.1.2, rfl⟩, h.1.2, h.2⟩

/-- Six fields (V-PD-9), where the scheme output is the scheme field. -/
theorem test_witness_NullSchemeResult : holdsScheme (ascii "suci-0-001-01-0000-0") "0" none = true := by
  decide +kernel

/-- V-PD-10. -/
theorem test_witness_UnrecognisedSchemeFollowsTheLegacyBit :
    holdsScheme (suci "3" (ascii "abcd")) "3" (some [0xAB, 0xCD]) = true := by decide +kernel

/-- Bytes for a scheme output: a first byte and 0x11 after it. -/
def fill (b : Byte) (n : Nat) : Bytes := b :: List.replicate n 0x11

theorem test_witness_ProfileFormatFailures :
    holdsScheme (suci "1" (ascii "0A1")) "1" none = true ∧ holdsScheme (suci "2" (ascii "0g")) "2" none = true ∧
    holdsScheme (suci "1" (hexLower (fill 0x11 38))) "1" (some (fill 0x11 38)) = true ∧
    (fill 0x11 38).length = 39 ∧ holdsScheme (suci "2" []) "2" (some []) = true ∧
    holdsScheme (suci "2" (hexLower [0x05])) "2" (some [0x05]) = true ∧
    holdsScheme (suci "2" (hexLower (fill 0x02 39))) "2" (some (fill 0x02 39)) = true ∧
    (fill 0x02 39).length = 40 ∧
    holdsScheme (suci "2" (hexLower (fill 0x04 71))) "2" (some (fill 0x04 71)) = true ∧
    (fill 0x04 71).length = 72 := by decide +kernel

theorem test_witness_MissingKeyFails :
    holdsScheme (suci "1" (hexLower (fill 0x11 39))) "1" (some (fill 0x11 39)) = true ∧
    (fill 0x11 39).length = 40 ∧
    holdsScheme (suci "2" (hexLower (fill 0x03 40))) "2" (some (fill 0x03 40)) = true ∧
    (fill 0x03 40).length = 41 ∧
    holdsScheme (suci "2" (hexLower (fill 0x04 72))) "2" (some (fill 0x04 72)) = true ∧
    (fill 0x04 72).length = 73 ∧
    (loaded []).slotA.valid = false ∧ (loaded []).slotB.valid = false := by decide +kernel

/-- A state with both keys committed. -/
def keyed (b : Bytes) : State :=
  { loaded b with
    slotA := { key := Vector.replicate 32 0x01, valid := true }
    slotB := { key := Vector.replicate 32 0x02, valid := true } }

theorem keyed_holds {b : Bytes} {u : Suci} (h : (loaded b).holdsSuci u) : (keyed b).holdsSuci u := h

/-- The inputs of `test_witness_MissingKeyFails` with the keys committed. -/
theorem test_witness_ProfileAResult :
    (keyed (suci "1" (hexLower (fill 0x11 39)))).ready ∧
    (keyed (suci "1" (hexLower (fill 0x11 39)))).holdsSuci (fieldsOf (suci "1" (hexLower (fill 0x11 39)))) ∧
    hexDecode (fieldsOf (suci "1" (hexLower (fill 0x11 39)))).schemeOutput = some (fill 0x11 39) ∧
    32 + 8 ≤ (fill 0x11 39).length ∧ (keyed []).slotA.valid = true :=
  ⟨ready_of rfl rfl, keyed_holds (of_holdsScheme test_witness_MissingKeyFails.1).2.1,
    (of_holdsScheme test_witness_MissingKeyFails.1).2.2.2, by decide, rfl⟩

theorem test_witness_ProfileBResult :
    ((keyed (suci "2" (hexLower (fill 0x03 40)))).ready ∧
      (keyed (suci "2" (hexLower (fill 0x03 40)))).holdsSuci (fieldsOf (suci "2" (hexLower (fill 0x03 40)))) ∧
      hexDecode (fieldsOf (suci "2" (hexLower (fill 0x03 40)))).schemeOutput = some (fill 0x03 40) ∧
      33 + 8 ≤ (fill 0x03 40).length) ∧
    ((keyed (suci "2" (hexLower (fill 0x04 72)))).ready ∧
      (keyed (suci "2" (hexLower (fill 0x04 72)))).holdsSuci (fieldsOf (suci "2" (hexLower (fill 0x04 72)))) ∧
      hexDecode (fieldsOf (suci "2" (hexLower (fill 0x04 72)))).schemeOutput = some (fill 0x04 72) ∧
      65 + 8 ≤ (fill 0x04 72).length) ∧
    (keyed []).slotB.valid = true :=
  ⟨⟨ready_of rfl rfl, keyed_holds (of_holdsScheme test_witness_MissingKeyFails.2.2.1).2.1,
      (of_holdsScheme test_witness_MissingKeyFails.2.2.1).2.2.2, by decide⟩,
    ⟨ready_of rfl rfl, keyed_holds (of_holdsScheme test_witness_MissingKeyFails.2.2.2.2.1).2.1,
      (of_holdsScheme test_witness_MissingKeyFails.2.2.2.2.1).2.2.2, by decide⟩, rfl⟩

theorem test_witness_FailureLeavesNoOutput :
    State.reset.ready ∧
    exec (.illegal 0 0) State.reset = .next (after (exec (.illegal 0 0) State.reset)) ∧
    (after (exec (.illegal 0 0) State.reset)).status.result ≠ .ok :=
  ⟨ready_of rfl rfl, eq_next_after (by decide +kernel), by decide +kernel⟩

theorem test_witness_DeconcealNeverOutgrowsItsInput :
    (State.ready { loaded [] with inLen := 1024 }) ∧ ((1024 : BitVec 16)).toNat ≤ (loaded []).params.inBufSize :=
  ⟨ready_of rfl rfl, by decide⟩

/-! ## Witnesses: registers and buffers. The idle and the busy block are those above. -/

/-- Writes that set each pair of COMMIT and CLEAR bits of KEYCTL. -/
theorem test_witness_KeyctlCommitsAndClears :
    (0x00030300 : Word).getLsbD 16 = true ∧ (0x00030300 : Word).getLsbD 17 = true ∧
    (0x00000300 : Word).getLsbD 16 = false ∧ (0x00000300 : Word).getLsbD 8 = true ∧
    (0x00000300 : Word).getLsbD 17 = false ∧ (0x00000300 : Word).getLsbD 9 = true ∧
    (0x00000000 : Word).getLsbD 8 = false ∧ (0x00000000 : Word).getLsbD 9 = false := by decide

theorem test_witness_KeyWordsStoreAndInvalidate : State.reset.busy = false ∧ (0 : Nat) < 8 ∧ (7 : Nat) < 8 := by
  decide

theorem test_witness_InBufWordReadsBack :
    State.reset.params.wf ∧ State.reset.busy = false ∧ 4 * 0 < State.reset.params.inBufSize ∧
    4 * 255 < State.reset.params.inBufSize := by decide

theorem test_witness_OutBufReadsAreMasked :
    State.reset.params.wf ∧ 4 * 0 < State.reset.params.outBufSize ∧ 4 * 255 < State.reset.params.outBufSize := by
  decide

/-- A block with smaller buffers, whose areas have a reserved part. -/
def small : State :=
  { State.reset with
    params := { baseAddr := 0x40000000, inBufSize := 512, outBufSize := 768, passthroughViaDispatch := true } }

theorem test_witness_ReservedOffsetsReadZeroIgnoreWrites :
    small.params.wf ∧ (0x020 : Nat) % 4 = 0 ∧ (0x03C : Nat) % 4 = 0 ∧ (0x080 : Nat) % 4 = 0 ∧
    (0x3FC : Nat) % 4 = 0 ∧ (0xC00 : Nat) < 0x1000 ∧ (0xFFC : Nat) < 0x1000 ∧
    (0x400 + small.params.inBufSize ≤ 0x600 ∧ (0x600 : Nat) ≤ 0x7FC) ∧
    (0x800 + small.params.outBufSize ≤ 0xB00 ∧ (0xB00 : Nat) ≤ 0xBFC) := by decide

theorem test_witness_IllegalAccessesChangeNothing :
    ((0xFFC : Nat) < 0x1000 ∧ ((2 : Nat) ≠ 4 ∨ (0xFFC : Nat) % 4 ≠ 0)) ∧
    ((0xFFF : Nat) < 0x1000 ∧ ((4 : Nat) ≠ 4 ∨ (0xFFF : Nat) % 4 ≠ 0)) := by decide

/-- One offset of each arm: frozen registers, key words, IN_BUF's ends, STATUS, and read-only ones. -/
theorem test_witness_WritesWhileBusyAreIgnored :
    running.params.wf ∧ running.busy = true ∧
    (∀ off ∈ [0x000, 0x008, 0x00C, 0x010, 0x014, 0x01C, 0x040, 0x07C, 0x080, 0x400, 0x7FC, 0x800, 0xFFC],
      off < 0x1000 ∧ off % 4 = 0) := by decide

theorem test_witness_ReadsHaveNoSideEffects :
    (running.setAgenda [.read 0xFFF 1]).agenda = .read 0xFFF 1 :: [] ∧
    windowOffset running.params 0xFFF ≠ none := by decide

/-- Two states that differ in a key, the scratch and the stage. -/
theorem test_witness_ReadsRevealNoKeyOrScratch :
    let t : State :=
      { running with
        slotA := { key := Vector.replicate 32 0xFF, valid := false }
        stage := .mac
        scratch := { Scratch.empty with plaintext := [1] } }
    running.params = t.params ∧ running.ctrl = t.ctrl ∧ running.status = t.status ∧ running.inLen = t.inLen ∧
    running.outLen = t.outLen ∧ running.slotA.valid = t.slotA.valid ∧ running.slotB.valid = t.slotB.valid ∧
    running.mem = t.mem ∧ running.draw = t.draw ∧ running.busy = t.busy ∧
    windowOffset running.params 0x040 ≠ none ∧ running ≠ t := by decide

/-! ## Witnesses: reset and invariants -/

theorem test_witness_ResetAbortsAndRestores :
    (((running.gotoStage .keyagree).issue (.sha256 [])).setAgenda [.reset]).agenda = .reset :: [] ∧
    ((running.gotoStage .keyagree).issue (.sha256 [])).port = .requested (.sha256 []) ∧
    (State.reset.setAgenda [.lateAnswer]).agenda = .lateAnswer :: [] := by decide

/-- One step of a running ILLEGAL command, for the invariants every step keeps. -/
def illegalRunning : State := State.reset.accept (.illegal 0 0)

theorem test_witness_step : step illegalRunning = .next (after (step illegalRunning)) :=
  eq_next_after (by decide +kernel)

theorem test_witness_MemoryInvariantIsKept : illegalRunning.params.wf ∧ illegalRunning.MemoryInv :=
  ⟨by decide, List.Pairwise.nil, fun _ h => (List.not_mem_nil h).elim, by decide, fun h => absurd h (by decide),
    fun h => absurd h (by decide)⟩

theorem test_witness_ResultsStayHiddenWhileBusy : illegalRunning.HiddenWhileBusy ∧ illegalRunning.busy = true :=
  ⟨fun _ => ⟨rfl, rfl, rfl, rfl, rfl⟩, by decide⟩

theorem test_witness_SequencerInvariantIsKept : illegalRunning.SequencerInv := by
  refine ⟨?_, trivial, ?_, ?_, ?_⟩
  · exact Option.some_ne_none _
  · intro h
    cases h
  · rintro (h | h) <;> cases h
  · intro h
    cases h

/-- A block about to request decryption, its MAC compared equal: the step makes the request. -/
def verified : State :=
  { running with
    stage := .decrypt
    scratch :=
      { Scratch.empty with
        profile := some .a
        mac := List.replicate 8 0x11
        expectedMac := List.replicate 8 0x11 } }

theorem test_witness_MacIsVerifiedBeforeDecryption :
    verified.SequencerInv ∧ verified.MacVerified ∧ step verified = .next (after (step verified)) ∧
    (after (step verified)).port = .requested (.aes128Ctr [] [] []) := by
  refine ⟨⟨rfl, trivial, ?_, ?_, ?_⟩, ⟨?_, ?_⟩, eq_next_after (by decide +kernel), by decide +kernel⟩
  · intro _ h
    cases h
  · rintro (h | h) <;> cases h
  · intro h
    cases h
  · intro h
    exact absurd rfl h
  · intro _
    decide

theorem test_witness_OnlyOutsideAccessesFault :
    (illegalRunning.setAgenda [.read 0x1000 4]).SequencerInv ∧
    step (illegalRunning.setAgenda [.read 0x1000 4]) = .fault .outsideWindow :=
  ⟨test_witness_SequencerInvariantIsKept, by rfl⟩

/-! ## Witnesses: rules about the whole machine -/

/-- One step for each cause: reset, a `run`, the completion of ZEROIZE, a KEYCTL write. -/
theorem test_witness_KeySlotsChangeOnlyByTheirRules :
    (∀ e ∈ [Event.reset, .run 0x00000005, .write 0x01C 4 0x00010000, .write 0x07C 4 0x00000001],
      isNext (step ((keyed []).setAgenda [e])) = true ∧
        ((after (step ((keyed []).setAgenda [e]))).slotA ≠ (keyed []).slotA ∨
          (after (step ((keyed []).setAgenda [e]))).slotB ≠ (keyed []).slotB)) ∧
    isNext (step { keyed [] with stage := .commit, cmd := some .zeroize }) = true ∧
    (after (step { keyed [] with stage := .commit, cmd := some .zeroize })).slotA ≠ (keyed []).slotA := by
  decide +kernel

/-- The same for a byte of IN_BUF; a reset draws it anew, which no evaluation can tell from the old byte. -/
theorem test_witness_InBufChangesOnlyByItsRules :
    (loaded [0xF1]).params.wf ∧ 0 < (loaded [0xF1]).params.inBufSize ∧
    (∀ e ∈ [Event.run 0x00000005, .write 0x400 4 0x00000001],
      isNext (step ((loaded [0xF1]).setAgenda [e])) = true ∧
        (after (step ((loaded [0xF1]).setAgenda [e]))).inByte 0 ≠ (loaded [0xF1]).inByte 0) ∧
    isNext (step { loaded [0xF1] with stage := .commit, cmd := some .zeroize }) = true ∧
    (after (step { loaded [0xF1] with stage := .commit, cmd := some .zeroize })).inByte 0 ≠
      (loaded [0xF1]).inByte 0 := by
  decide +kernel

theorem test_witness_InputsAreFrozenWhileBusy :
    (running.setAgenda [.write 0x014 4 5]).busy = true ∧
    (running.setAgenda [.write 0x014 4 5]).agenda = [.write 0x014 4 5] ∧
    isNext (step (running.setAgenda [.write 0x014 4 5])) = true ∧
    (after (step (running.setAgenda [.write 0x014 4 5]))).busy = true := by decide +kernel

/-- A keyed block in a stage, its scratch holding a profile, a form and an ephemeral key. -/
def atStage (st : Stage) (q : Profile) (eph : Bytes) : State :=
  { keyed [] with
    stage := st
    cmd := some .deconceal
    scratch := { Scratch.empty with profile := some q, form := some .compressed, ephemeralKey := eph } }

theorem test_witness_RequestsComeFromEngineStages :
    (after (step (atStage .keyagree .a []))).port = .requested (.x25519 (List.replicate 32 0x01) []) ∧
    (after (step (atStage .keyagree .b (key03 gx)))).port =
      .requested (.p256SmulX (List.replicate 32 0x02) gx gy) ∧
    (after (step (atStage .kdf .a []))).port = .requested (.sha256 (be32 1)) ∧
    (after (step (atStage .mac .a []))).port = .requested (.hmacSha256 [] []) ∧
    (after (step (atStage .decrypt .a []))).port = .requested (.aes128Ctr [] [] []) := by decide +kernel

/-! ## Witnesses: small steps and whole commands -/

theorem test_witness_OwnMovesCompleteTheCommand :
    State.reset.busy = false ∧
    (State.reset.setAgenda [.write (State.reset.params.baseAddr + 0x00C) 4 0x00000006]).agenda =
      [.write (State.reset.params.baseAddr + 0x00C) 4 0x00000006] := by decide

/-- A CMD write, and moves of the sequencer with an idle answer and a read among them. -/
def scheduled : State :=
  State.reset.setAgenda
    (.write (State.reset.params.baseAddr + 0x00C) 4 0x00000006 ::
      [.sequencerMove, .engineMove, .read 0x010 4, .sequencerMove])

theorem test_witness_EveryScheduleGivesTheSameResult :
    scheduled.busy = false ∧
    (∀ e ∈ [Event.sequencerMove, .engineMove, .read 0x010 4, .sequencerMove], quietEvent scheduled.params e) ∧
    Sys2Proof.core.run 5 scheduled = .next (after (Sys2Proof.core.run 5 scheduled)) ∧
    State.busy (after (Sys2Proof.core.run 5 scheduled)) = false := by
  refine ⟨by decide, ?_, eq_next_after (by decide +kernel), by decide +kernel⟩
  intro e h
  simp only [List.mem_cons, List.not_mem_nil, or_false] at h
  rcases h with rfl | rfl | rfl | rfl
  · trivial
  · trivial
  · show windowOffset State.reset.params 0x010 ≠ none
    decide
  · trivial

/-! ## Witnesses: byte strings and the curve -/

theorem test_witness_SwapNibblesIsItsOwnInverse : 0 < [(0xF1 : Byte)].length := by decide

/-- Digits of either case (R152's example), and the first and last character of each range. -/
theorem test_witness_HexDecodeInvertsHexLower :
    hexDecode (ascii "0A1b") = some [0x0A, 0x1B] ∧ hexDecode (ascii "09AFaf") = some [0x09, 0xAF, 0xAF] ∧
    hexDecode [] = some [] ∧ 0 < [(0x0A : Byte), 0x1B].length := by decide

theorem test_witness_MacComparisonIsExact :
    (List.replicate 8 (0x00 : Byte)).length = 8 ∧ (List.replicate 8 (0xFF : Byte)).length = 8 := by decide

theorem test_witness_DerivedKeysPartitionTheBuffer :
    ({ Scratch.empty with derived := derivedBuffer [] [] } : Scratch).derived = derivedBuffer [] [] := by rfl

theorem test_witness_RecoveredPointMatchesItsKey :
    (key03 gx).length = 33 ∧ (key03 gx).headD 0 = 0x03 ∧ P256.recover (key03 gx) = some (gx, gy) ∧
    (key02 gx).length = 33 ∧ (key02 gx).headD 0 = 0x02 ∧ P256.recover (key02 gx) ≠ none ∧
    (key02 1).length = 33 ∧ (key02 1).headD 0 = 0x02 ∧ P256.recover (key02 1) = none ∧
    (key03 P256.p).length = 33 ∧ (key03 P256.p).headD 0 = 0x03 ∧ P256.recover (key03 P256.p) = none := by
  decide +kernel

theorem test_witness_DecompressThenCompressRoundTrip :
    (loaded (key03 gx)).ready ∧ (loaded (key03 gx)).inLen.toNat ≤ (loaded (key03 gx)).params.inBufSize ∧
    exec .p256Decompress (loaded (key03 gx)) = .next (after (exec .p256Decompress (loaded (key03 gx)))) ∧
    (after (exec .p256Decompress (loaded (key03 gx)))).status.result = .ok ∧
    (loaded (key04 gx gy)).ready ∧ (loaded (key04 gx gy)).params = (loaded (key03 gx)).params ∧
    (loaded (key04 gx gy)).inLen.toNat ≤ (loaded (key04 gx gy)).params.inBufSize ∧
    (loaded (key04 gx gy)).input = (after (exec .p256Decompress (loaded (key03 gx)))).output :=
  ⟨ready_of rfl rfl, by decide +kernel, eq_next_after (by decide +kernel), by decide +kernel, ready_of rfl rfl, rfl,
    by decide +kernel, by decide +kernel⟩

end Sys2Proof.Tests
end

section
/-! Byte strings (R12, R112, R152, R212): the nibbles of a byte, its two hex characters, and what a hex character
stands for. -/

namespace Sys2Proof.Machine

/-! ## Nibbles -/

theorem swapByte_low (b : Byte) : (swapByte b).extractLsb' 0 4 = b.extractLsb' 4 4 := by
  ext k hk
  simp only [swapByte, BitVec.getElem_extractLsb', BitVec.getLsbD_or, BitVec.getLsbD_shiftLeft,
    BitVec.getLsbD_ushiftRight]
  simp [hk]

theorem swapByte_high (b : Byte) : (swapByte b).extractLsb' 4 4 = b.extractLsb' 0 4 := by
  ext k hk
  have hmask : (0x0F#8).getLsbD k = true := by
    interval_cases k <;> rfl
  have hgone : b.getLsbD (4 + (4 + k)) = false := BitVec.getLsbD_of_ge _ _ (by omega)
  simp only [swapByte, BitVec.getElem_extractLsb', BitVec.getLsbD_or, BitVec.getLsbD_shiftLeft,
    BitVec.getLsbD_ushiftRight, BitVec.getLsbD_and]
  simp [hmask, hgone, show 4 + k < 8 by omega]

/-- A byte is its two nibbles. -/
theorem byte_ext_nibbles {b c : Byte} (hlow : b.extractLsb' 0 4 = c.extractLsb' 0 4)
    (hhigh : b.extractLsb' 4 4 = c.extractLsb' 4 4) : b = c := by
  apply BitVec.eq_of_getLsbD_eq
  intro k hk
  by_cases h4 : k < 4
  · have hbit := congrArg (·.getLsbD k) hlow
    simpa [BitVec.getLsbD_extractLsb', h4] using hbit
  · have hbit := congrArg (·.getLsbD (k - 4)) hhigh
    simpa [BitVec.getLsbD_extractLsb', show k - 4 < 4 by omega, show 4 + (k - 4) = k by omega] using hbit

theorem swapByte_swapByte (b : Byte) : swapByte (swapByte b) = b :=
  byte_ext_nibbles ((swapByte_low _).trans (swapByte_high b)) ((swapByte_high _).trans (swapByte_low b))

theorem swapNibbles_swapNibbles (b : Bytes) : swapNibbles (swapNibbles b) = b := by
  have hinv : swapByte ∘ swapByte = id := funext swapByte_swapByte
  rw [swapNibbles, swapNibbles, List.map_map, hinv, List.map_id]

/-- Past the end both sides read 0, which is its own exchange. -/
theorem swapNibbles_getD (b : Bytes) (i : Nat) : (swapNibbles b).getD i 0 = swapByte (b.getD i 0) :=
  List.getD_map b 0 swapByte

/-! ## Hex characters -/

/-- The character of R112 for a digit below 16. -/
def hexDigit (n : Nat) : Byte := BitVec.ofNat 8 (if n < 10 then 0x30 + n else 0x61 + (n - 10))

/-- The digit R152 reads in a hex character of either case. -/
def hexDigitValue (c : Byte) : Nat :=
  if c ≤ 0x39 then c.toNat - 0x30 else if c ≤ 0x46 then 10 + (c.toNat - 0x41) else 10 + (c.toNat - 0x61)

/-- The characters R152 takes: 0-9, a-f, A-F. -/
def IsHexChar (c : Byte) : Prop :=
  (0x30 ≤ c ∧ c ≤ 0x39) ∨ (0x61 ≤ c ∧ c ≤ 0x66) ∨ (0x41 ≤ c ∧ c ≤ 0x46)

theorem highNibble_toNat (x : Byte) : (x >>> 4).toNat = x.toNat / 16 := by
  rw [BitVec.toNat_ushiftRight, Nat.shiftRight_eq_div_pow]

theorem lowNibble_toNat (x : Byte) : (x &&& 0x0F).toNat = x.toNat % 16 := by
  rw [BitVec.toNat_and]
  exact Nat.and_two_pow_sub_one_eq_mod x.toNat 4

theorem hexChar_eq_hexDigit {n : Byte} (h : n.toNat < 16) : hexChar n = hexDigit n.toNat := by
  unfold hexChar hexDigit
  split <;> split <;> bv_omega

theorem hexVal_hexChar {n : Byte} (h : n.toNat < 16) : hexVal (hexChar n) = some n := by
  by_cases h10 : n < 10
  · have hc : hexChar n = 0x30 + n := if_pos h10
    rw [hc, hexVal, if_pos (by bv_omega)]
    congr 1
    bv_omega
  · have hc : hexChar n = 0x57 + n := if_neg h10
    rw [hc, hexVal, if_neg (by bv_omega), if_pos (by bv_omega)]
    congr 1
    bv_omega

/-- A character that has a value is a digit below 16 (R152). -/
theorem hexVal_some {c v : Byte} (h : hexVal c = some v) : v.toNat = hexDigitValue c ∧ v.toNat < 16 := by
  unfold hexVal at h
  unfold hexDigitValue
  split at h
  · obtain rfl := Option.some.inj h
    rw [if_pos (by bv_omega)]
    constructor <;> bv_omega
  · split at h
    · obtain rfl := Option.some.inj h
      rw [if_neg (by bv_omega), if_neg (by bv_omega)]
      constructor <;> bv_omega
    · split at h
      · obtain rfl := Option.some.inj h
        rw [if_neg (by bv_omega), if_pos (by bv_omega)]
        constructor <;> bv_omega
      · cases h

theorem hexVal_eq_none_iff (c : Byte) : hexVal c = none ↔ ¬ IsHexChar c := by
  unfold hexVal IsHexChar
  split_ifs with h09 haf hAF
  · exact iff_of_false nofun (not_not.2 (.inl h09))
  · exact iff_of_false nofun (not_not.2 (.inr (.inl haf)))
  · exact iff_of_false nofun (not_not.2 (.inr (.inr hAF)))
  · exact iff_of_true rfl (not_or.2 ⟨h09, not_or.2 ⟨haf, hAF⟩⟩)

/-! ## Hex strings -/

theorem hexLower_cons (x : Byte) (b : Bytes) :
    hexLower (x :: b) = hexChar (x >>> 4) :: hexChar (x &&& 0x0F) :: hexLower b := rfl

theorem hexDecode_cons_of_some {t u hi lo : Byte} {rest bs : Bytes} (ht : hexVal t = some hi)
    (hu : hexVal u = some lo) (hr : hexDecode rest = some bs) :
    hexDecode (t :: u :: rest) = some ((16 * hi + lo) :: bs) := by
  rw [hexDecode, ht, hu, hr]

theorem hexDecode_pair_eq_none_iff (t u : Byte) (rest : Bytes) :
    hexDecode (t :: u :: rest) = none ↔ hexVal t = none ∨ hexVal u = none ∨ hexDecode rest = none := by
  rw [hexDecode]
  cases hexVal t <;> cases hexVal u <;> cases hexDecode rest <;> simp

theorem hexDecode_hexLower (b : Bytes) : hexDecode (hexLower b) = some b := by
  induction b with
  | nil => rfl
  | cons x b ih =>
    have hhi := highNibble_toNat x
    have hlo := lowNibble_toNat x
    have hjoin : (16 : Byte) * (x >>> 4) + (x &&& 0x0F) = x := by
      have h16 : (16 : Byte).toNat = 16 := rfl
      apply BitVec.eq_of_toNat_eq
      rw [BitVec.toNat_add, BitVec.toNat_mul, hhi, hlo, h16]
      omega
    rw [hexLower_cons, hexDecode_cons_of_some (hexVal_hexChar (by omega)) (hexVal_hexChar (by omega)) ih, hjoin]

/-- The two characters of the byte at `i`, high nibble first (R112). -/
theorem hexLower_getD {b : Bytes} {i : Nat} (hi : i < b.length) :
    (hexLower b).getD (2 * i) 0 = hexDigit ((b.getD i 0).toNat / 16) ∧
      (hexLower b).getD (2 * i + 1) 0 = hexDigit ((b.getD i 0).toNat % 16) := by
  induction b generalizing i with
  | nil => simp at hi
  | cons x b ih =>
    rw [hexLower_cons]
    cases i with
    | zero =>
      have hhi := highNibble_toNat x
      have hlo := lowNibble_toNat x
      simp only [List.getD_cons_zero, List.getD_cons_succ, Nat.mul_zero, Nat.zero_add]
      rw [hexChar_eq_hexDigit (by omega), hexChar_eq_hexDigit (by omega), hhi, hlo]
      exact ⟨rfl, rfl⟩
    | succ i =>
      simp only [Nat.mul_add, Nat.mul_one, List.getD_cons_succ]
      exact ih (by simpa using hi)

/-- The byte decoded at `i` is its two digits, high one first (R152). -/
theorem hexDecode_getD : ∀ {t b : Bytes} {i : Nat}, hexDecode t = some b → i < b.length →
    (b.getD i 0).toNat = 16 * hexDigitValue (t.getD (2 * i) 0) + hexDigitValue (t.getD (2 * i + 1) 0)
  | [], b, i, h, hi => by
    obtain rfl := Option.some.inj h
    simp at hi
  | [_], b, i, h, _ => by cases h
  | t :: u :: rest, b, i, h, hi => by
    obtain ⟨hd, lo, bs, ht, hu, hr, rfl⟩ := hexDecode_pair h
    cases i with
    | zero =>
      obtain ⟨hdv, hdlt⟩ := hexVal_some ht
      obtain ⟨lov, lolt⟩ := hexVal_some hu
      simp only [List.getD_cons_zero, List.getD_cons_succ, Nat.mul_zero, Nat.zero_add]
      rw [← hdv, ← lov]
      bv_omega
    | succ i =>
      simp only [Nat.mul_add, Nat.mul_one, List.getD_cons_succ]
      exact hexDecode_getD hr (by simpa using hi)

/-- Decoding fails on an odd length or on a character that is no digit, and on nothing else (R152). -/
theorem hexDecode_eq_none_iff : ∀ t : Bytes, hexDecode t = none ↔ t.length % 2 ≠ 0 ∨ ∃ c ∈ t, ¬ IsHexChar c
  | [] => by simp [hexDecode]
  | [_] => by simp [hexDecode]
  | t :: u :: rest => by
    have hlen : (t :: u :: rest).length % 2 = rest.length % 2 := by
      simp only [List.length_cons]
      omega
    rw [hexDecode_pair_eq_none_iff, hexVal_eq_none_iff, hexVal_eq_none_iff, hexDecode_eq_none_iff rest, hlen]
    simp only [List.exists_mem_cons_iff]
    tauto

/-! ## The obligations -/

/-- Settles O53: byte by byte, from what `swapByte` does to each nibble. -/
theorem swapNibblesIsItsOwnInverse : Obligations.SwapNibblesIsItsOwnInverse := by
  refine ⟨swapNibbles_swapNibbles, fun b => ⟨swapNibbles_length b, fun i _ => ?_⟩⟩
  rw [swapNibbles_getD]
  exact ⟨swapByte_low _, swapByte_high _⟩

/-- Settles O54, by induction on the byte strings, from the values of single characters. -/
theorem hexDecodeInvertsHexLower : Obligations.HexDecodeInvertsHexLower :=
  ⟨hexDecode_hexLower,
    fun b => ⟨hexLower_length b, fun _ hi => hexLower_getD hi⟩,
    fun _ _ h => ⟨hexDecode_length h, fun _ hi => hexDecode_getD h hi⟩,
    hexDecode_eq_none_iff⟩

end Sys2Proof.Machine
end

section
/-! The memory invariant (R9, R40, R45, R46): what each update of the state does to it, what each stage of the
sequencer leaves waiting to be written, and the step. -/

namespace Sys2Proof.Machine

/-! ## What is waiting to be written -/

/-- A stage that neither reads IN nor holds a finished result asks for nothing. -/
theorem outputFits_of_stage {s : State}
    (h : s.stage ≠ .parse ∧ s.stage ≠ .dispatch ∧ s.stage ≠ .commit) : s.OutputFits := by
  obtain ⟨hp, hd, hc⟩ := h
  exact ⟨fun h => absurd h (not_or.2 ⟨hp, hd⟩), fun h => absurd h hc⟩

theorem outputFits_of_dispatch {s : State} (h : s.stage = .dispatch) (hl : s.inLen.toNat ≤ s.params.inBufSize) :
    s.OutputFits :=
  ⟨fun _ => hl, fun hc => by simp [h] at hc⟩

theorem raiseFail_outputFits (s : State) {e : ResultCode} (he : e ≠ .ok) : (s.raiseFail e).OutputFits :=
  ⟨fun h => by simp at h, fun _ hok => absurd hok he⟩

theorem emit_outputFits {s : State} {out : Bytes} (h : out.length ≤ s.params.outBufSize) :
    (s.emit out).OutputFits :=
  ⟨fun h => by simp at h, fun _ _ => h⟩

theorem emitChecked_outputFits (s : State) (out : Bytes) : (s.emitChecked out).OutputFits := by
  obtain ⟨-, e⟩ | ⟨hl, e⟩ := emitChecked_cases s out <;> rw [e]
  · exact raiseFail_outputFits s (by simp)
  · exact emit_outputFits hl

/-- IN fits in OUT_BUF wherever it fits in IN_BUF (R132, log 6). -/
theorem passthrough_outputFits {s : State} (hwf : s.params.wf) (hl : s.inLen.toNat ≤ s.params.inBufSize) :
    (passthrough s).OutputFits := by
  obtain ⟨-, -, -, -, -, hsize⟩ := hwf
  exact emit_outputFits (by simpa using hl.trans hsize)

theorem stageCheck_outputFits {s s' : State} (h : stageCheck s = .next s') : s'.OutputFits := by
  obtain ⟨o, r, -, rfl⟩ | ⟨i, -, -, -, rfl⟩ | ⟨i, -, -, hl, rfl⟩ := stageCheck_cases h
  · exact raiseFail_outputFits s (by simp)
  · exact raiseFail_outputFits s (by simp)
  · cases i with
    | deconceal => exact ⟨fun _ => hl rfl, fun hc => by cases hc⟩
    | p256Decompress | p256Compress | tbcdDecode | zeroize | illegal o r =>
      exact outputFits_of_stage (by simp [stageAfterCheck])

theorem stageParse_outputFits {s : State} (hwf : s.params.wf) (hl : s.inLen.toNat ≤ s.params.inBufSize) :
    (stageParse s).OutputFits := by
  obtain ⟨-, -, e⟩ | ⟨-, -, e⟩ | ⟨-, -, e⟩ | ⟨-, -, e⟩ | e := stageParse_cases s <;> rw [e]
  · exact passthrough_outputFits hwf hl
  · exact outputFits_of_dispatch rfl hl
  · exact raiseFail_outputFits s (by simp)
  · exact outputFits_of_dispatch rfl hl
  · exact raiseFail_outputFits s (by simp)

theorem stageDispatch_outputFits {s : State} (hwf : s.params.wf) (hl : s.inLen.toNat ≤ s.params.inBufSize) :
    (stageDispatch s).OutputFits := by
  obtain ⟨-, e⟩ | e | e | e | ⟨-, e⟩ := stageDispatch_cases s <;> rw [e]
  · exact passthrough_outputFits hwf hl
  · exact outputFits_of_stage (by simp [nullScheme])
  · exact outputFits_of_stage (by simp [chooseProfile])
  · exact outputFits_of_stage (by simp [chooseProfile])
  · exact raiseFail_outputFits s (by simp)

theorem stageHexdec_outputFits (s : State) : (stageHexdec s).OutputFits := by
  obtain ⟨-, e⟩ | ⟨d, -, e⟩ := stageHexdec_cases s <;> rw [e]
  · exact raiseFail_outputFits s (by simp)
  · exact outputFits_of_stage (by simp)

theorem stageKeylen_outputFits {s s' : State} (h : stageKeylen s = .next s') : s'.OutputFits := by
  obtain ⟨e, he, rfl⟩ | ⟨n, form, -, -, rfl⟩ := stageKeylen_cases h
  · exact raiseFail_outputFits s he
  · exact outputFits_of_stage (by simp)

theorem stageKeyagree_outputFits {s s' : State} (hst : s.stage = .keyagree) (h : stageKeyagree s = .next s') :
    s'.OutputFits := by
  obtain ⟨-, hb⟩ | ⟨r, -, rfl⟩ | ⟨-, rfl⟩ | ⟨z, -, rfl⟩ := stageKeyagree_cases h
  · obtain ⟨e, he, rfl⟩ | ⟨-, -, rfl⟩ | ⟨form, pt, -, -, -, -, rfl⟩ := beginAgreement_cases hb
    · exact raiseFail_outputFits s he
    · exact outputFits_of_stage (by simp [hst])
    · exact outputFits_of_stage (by simp [hst])
  · exact outputFits_of_stage (by simp [hst])
  · exact raiseFail_outputFits s (by simp)
  · exact outputFits_of_stage (by simp)

theorem stageKdf_outputFits {s s' : State} (hst : s.stage = .kdf) (h : stageKdf s = .next s') : s'.OutputFits := by
  apply outputFits_of_stage
  obtain ⟨-, -, rfl⟩ | ⟨-, -, rfl⟩ | ⟨r, -, rfl⟩ | ⟨z, -, rfl⟩ := stageKdf_cases h <;> simp [hst]

theorem stageMac_outputFits {s s' : State} (hst : s.stage = .mac) (h : stageMac s = .next s') : s'.OutputFits := by
  obtain ⟨-, rfl⟩ | ⟨r, -, rfl⟩ | ⟨tag, -, -, rfl⟩ | ⟨tag, -, -, rfl⟩ := stageMac_cases h
  · exact outputFits_of_stage (by simp [hst])
  · exact outputFits_of_stage (by simp [hst])
  · exact raiseFail_outputFits _ (by simp)
  · exact outputFits_of_stage (by simp)

theorem stageDecrypt_outputFits {s s' : State} (hst : s.stage = .decrypt) (h : stageDecrypt s = .next s') :
    s'.OutputFits := by
  apply outputFits_of_stage
  obtain ⟨-, rfl⟩ | ⟨r, -, rfl⟩ | ⟨z, -, rfl⟩ := stageDecrypt_cases h <;> simp [hst]

theorem stageAux_outputFits {s s' : State} (h : stageAux s = .next s') : s'.OutputFits := by
  obtain ⟨e, he, rfl⟩ | ⟨-, rfl⟩ | ⟨out, hl, rfl⟩ := stageAux_cases h
  · exact raiseFail_outputFits s he
  · exact emit_outputFits (Nat.zero_le _)
  · exact emit_outputFits hl

/-- Before COMMIT every move leaves a result that fits, or none. -/
theorem sequencerMove_outputFits {s s' : State} (hwf : s.params.wf) (hs : s.OutputFits)
    (hc : s.stage ≠ .commit) (h : sequencerMove s = .next s') : s'.OutputFits := by
  obtain ⟨hin, -⟩ := hs
  cases hst : s.stage <;> simp only [sequencerMove, hst, Host.Outcome.next.injEq] at h
  case idle =>
    subst h
    exact outputFits_of_stage (by simp [hst])
  case check => exact stageCheck_outputFits h
  case parse => exact h ▸ stageParse_outputFits hwf (hin (.inl hst))
  case dispatch => exact h ▸ stageDispatch_outputFits hwf (hin (.inr hst))
  case hexdec => exact h ▸ stageHexdec_outputFits s
  case keylen => exact stageKeylen_outputFits h
  case split => exact h ▸ outputFits_of_stage (by simp [stageSplit])
  case keyagree => exact stageKeyagree_outputFits hst h
  case kdf => exact stageKdf_outputFits hst h
  case mac => exact stageMac_outputFits hst h
  case decrypt => exact stageDecrypt_outputFits hst h
  case decode => exact h ▸ outputFits_of_stage (by simp [stageDecode])
  case assemble => exact h ▸ emitChecked_outputFits _ _
  case commit => exact absurd hst hc
  case aux => exact stageAux_outputFits h

/-! ## The buffers -/

/-- Bytes stored inside a buffer keep the memory inside the buffers. -/
theorem write_bufferOffset {p : Params} {m : Memory} {base : Nat} {bytes : Bytes}
    (hm : ∀ c ∈ m, bufferOffset p c.1) (hb : ∀ a, base ≤ a → a < base + bytes.length → bufferOffset p a) :
    ∀ c ∈ m.write base bytes, bufferOffset p c.1 := by
  intro c hc
  obtain hold | ⟨hlo, hhi⟩ := mem_write hc
  · exact hm c hold
  · exact hb c.1 hlo hhi

theorem bufferOffset_of_inBuf {p : Params} {a : Nat} (hlo : Config.inBufBase ≤ a)
    (hhi : a < Config.inBufBase + p.inBufSize) : bufferOffset p a :=
  .inl ⟨hlo, hhi⟩

theorem bufferOffset_of_outBuf {p : Params} {n a : Nat} (hn : n ≤ p.outBufSize) (hlo : Config.outBufBase ≤ a)
    (hhi : a < Config.outBufBase + n) : bufferOffset p a :=
  .inr ⟨hlo, by omega⟩

/-- Where the buffers and OUT_LEN stay, only what is waiting to be written is left to check. -/
theorem State.MemoryInv.of_frame {s t : State} (h : s.MemoryInv) (hp : t.params = s.params) (hm : t.mem = s.mem)
    (ho : t.outLen = s.outLen) (hf : t.OutputFits) : t.MemoryInv := by
  obtain ⟨hwf, hin, hlen, -⟩ := h
  exact ⟨hm ▸ hwf, by rwa [hm, hp], by rwa [ho, hp], hf⟩

theorem State.MemoryInv.outputFits {s : State} (h : s.MemoryInv) : s.OutputFits := by
  obtain ⟨-, -, -, hf⟩ := h
  exact hf

/-- An idle block that lists no memory and shows no result, whatever its parameters. -/
theorem memoryInv_of_cleared {s : State} (hm : s.mem = []) (ho : s.outLen = 0) (hst : s.stage = .idle) :
    s.MemoryInv := by
  refine ⟨?_, ?_, ?_, outputFits_of_stage (by simp [hst])⟩
  · exact hm ▸ Memory.nil_wf
  · simp [hm]
  · simp [ho]

theorem reset_memoryInv : State.reset.MemoryInv := memoryInv_of_cleared rfl rfl rfl

theorem assertReset_memoryInv (s : State) : s.assertReset.MemoryInv :=
  memoryInv_of_cleared rfl rfl rfl

theorem accept_memoryInv {s : State} (i : Instr) (h : s.MemoryInv) : (s.accept i).MemoryInv := by
  obtain ⟨hwf, hin, -, -⟩ := h
  exact ⟨hwf, hin, Nat.zero_le _, outputFits_of_stage (by simp)⟩

/-- IN_LEN may be any number while the block is idle: CHECK tests it (R39, R150). -/
theorem writeInLen_memoryInv {s : State} (v : Word) (h : s.MemoryInv) (hb : s.busy = false) :
    (s.writeInLen v).MemoryInv := by
  rw [busy_eq_false_iff] at hb
  exact h.of_frame rfl rfl rfl (outputFits_of_stage (by simp [hb]))

/-- The four bytes of a word that starts in IN_BUF lie in IN_BUF, whose size is a multiple of 4 (R9, R45). -/
theorem writeInBuf_memoryInv {s : State} {i : Nat} (v : Word) (hp : s.params.wf) (h : s.MemoryInv)
    (h4 : i % 4 = 0) (hi : i < s.params.inBufSize) : (s.writeInBuf i v).MemoryInv := by
  obtain ⟨-, hsize4, -⟩ := hp
  obtain ⟨hwf, hin, hlen, hfits⟩ := h
  refine ⟨writeInBuf_wf i v hwf, write_bufferOffset hin fun a hlo hhi => ?_, hlen, hfits⟩
  have hlanes : (lanesOf v).length = 4 := rfl
  exact bufferOffset_of_inBuf (by omega) (by simp only [State.writeInBuf_params]; omega)

theorem clearStorage_memoryInv {s : State} (h : s.MemoryInv) : s.clearStorage.MemoryInv := by
  obtain ⟨hwf, hin, hlen, -, hcommit⟩ := h
  refine ⟨clearStorage_wf hwf, ?_, hlen, fun _ => Nat.zero_le _, hcommit⟩
  rw [State.clearStorage_mem]
  refine write_bufferOffset (write_bufferOffset hin fun a hlo hhi => ?_) fun a hlo hhi => ?_
  · exact bufferOffset_of_inBuf hlo (by simpa using hhi)
  · exact bufferOffset_of_outBuf le_rfl hlo (by simpa using hhi)

/-- The completion stores a result that fits, and OUT_LEN is its length (R220). -/
theorem complete_memoryInv {s : State} {q : Pending} (h : s.MemoryInv)
    (hq : q.code = .ok → q.out.length ≤ s.params.outBufSize) : (s.complete q).MemoryInv := by
  obtain ⟨hwf, hin, -, -⟩ := h
  refine ⟨complete_wf q hwf, ?_, ?_, outputFits_of_stage (by simp)⟩
  · rw [State.complete_mem]
    split
    · exact write_bufferOffset hin fun a hlo hhi => bufferOffset_of_outBuf (hq ‹_›) hlo hhi
    · exact hin
  · rw [State.complete_outLen]
    split
    · exact (Nat.mod_le _ _).trans (hq ‹_›)
    · exact Nat.zero_le _

theorem stageCommit_memoryInv {s : State} (h : s.MemoryInv) (hst : s.stage = .commit) :
    (stageCommit s).MemoryInv := by
  obtain ⟨-, hcommit⟩ := h.outputFits
  have hfits := hcommit hst
  by_cases hz : s.cmd = some .zeroize
  · rw [stageCommit_of_zeroize hz]
    exact complete_memoryInv (clearStorage_memoryInv h) hfits
  · rw [stageCommit_of_ne hz]
    exact complete_memoryInv h hfits

/-! ## Moves and steps -/

theorem sequencerMove_params {s s' : State} (h : sequencerMove s = .next s') : s'.params = s.params := by
  by_cases hc : s.stage = .commit
  · rw [sequencerMove_commit hc, Host.Outcome.next.injEq] at h
    subst h
    unfold stageCommit
    split <;> rfl
  · rw [sequencerMove_frame h hc]

theorem sequencerMove_memoryInv {s s' : State} (hp : s.params.wf) (hs : s.MemoryInv)
    (h : sequencerMove s = .next s') : s'.MemoryInv := by
  by_cases hc : s.stage = .commit
  · rw [sequencerMove_commit hc, Host.Outcome.next.injEq] at h
    exact h ▸ stageCommit_memoryInv hs hc
  · have hframe := sequencerMove_frame h hc
    have hfits : s'.OutputFits := sequencerMove_outputFits hp hs.outputFits hc h
    exact hs.of_frame (by rw [hframe]) (by rw [hframe]) (by rw [hframe]) hfits

/-- The invariant of a block that carries the parameters `p`: it keeps them, and its memory invariant. -/
def State.KeepsMemory (p : Params) (s : State) : Prop := s.params = p ∧ s.MemoryInv

theorem step_keepsMemory {p : Params} (hp : p.wf) {s s' : State} (hs : s.KeepsMemory p) (h : step s = .next s') :
    s'.KeepsMemory p := by
  refine step_keeps (P := State.KeepsMemory p) (hag := fun _ _ h => h) (hresp := fun _ _ h => h)
    (hmove := ?move) (heng := fun _ _ h _ => h) (hover := fun _ h => h) (hstat := fun _ _ h => h)
    (hctrl := fun _ _ h _ => h) (hacc := ?accept) (hinl := ?inLen) (hkc := fun _ _ h _ => h)
    (hka := fun _ _ _ h _ => h) (hkb := fun _ _ _ h _ => h) (hib := ?inBuf) (hlate := fun _ h => h)
    (hres := ?reset) hs h
  case move =>
    rintro t t' ⟨rfl, ht⟩ hm
    exact ⟨sequencerMove_params hm, sequencerMove_memoryInv hp ht hm⟩
  case accept => exact fun _ i ⟨he, ht⟩ _ => ⟨he, accept_memoryInv i ht⟩
  case inLen => exact fun _ v ⟨he, ht⟩ hb => ⟨he, writeInLen_memoryInv v ht hb⟩
  case inBuf =>
    rintro t i v ⟨rfl, ht⟩ - h4 hi
    exact ⟨rfl, writeInBuf_memoryInv v hp ht h4 hi⟩
  case reset => exact fun t ⟨he, _⟩ => ⟨he, assertReset_memoryInv t⟩

/-! ## The obligations -/

/-- Settles O45: the reset state has R9's default parameters, lists no memory and runs no command. -/
theorem invariantsHoldAtReset : Obligations.InvariantsHoldAtReset := by
  refine ⟨by decide, ?memory, ?hidden, ?sequencer, ?mac⟩
  case memory => exact reset_memoryInv
  case hidden =>
    have hidle : State.reset.busy = false := rfl
    exact fun hb => absurd (hidle.symm.trans hb) Bool.false_ne_true
  case sequencer =>
    have hstage : State.reset.stage = .idle := rfl
    have hprofile : State.reset.scratch.profile = none := rfl
    exact ⟨rfl, trivial, by simp [hstage, Stage.afterDispatch], by simp [hprofile], fun _ => rfl⟩
  case mac => exact ⟨fun hp => absurd rfl hp, fun _ => rfl⟩

/-- Settles O41: every update of the state keeps `State.KeepsMemory`, so every step does. -/
theorem memoryInvariantIsKept : Obligations.MemoryInvariantIsKept := by
  intro s s' hp hs h
  obtain ⟨hparams, hmem⟩ := step_keepsMemory hp (⟨rfl, hs⟩ : s.KeepsMemory s.params) h
  exact ⟨hmem, hparams⟩

end Sys2Proof.Machine
end

section
/-! The rules about a running command (R37, R40, R50, R51, R151, R221, R301): its results stay hidden, and the
sequencer keeps its stage, command, port and scratch consistent. -/

namespace Sys2Proof.Machine

/-! ## Hidden results -/

/-- A move of a block that stays busy touches neither STATUS nor OUT_LEN, and COMMIT ends in IDLE. -/
theorem sequencerMove_hiddenWhileBusy {s s' : State} (hs : s.HiddenWhileBusy) (h : sequencerMove s = .next s') :
    s'.HiddenWhileBusy := by
  by_cases hc : s.stage = .commit
  · rw [sequencerMove_commit hc, Host.Outcome.next.injEq] at h
    subst h
    have hidle : (stageCommit s).stage = .idle := by
      unfold stageCommit
      split <;> rfl
    exact fun hb => absurd hidle ((busy_eq_true_iff _).1 hb)
  · by_cases hi : s.stage = .idle
    · simp only [sequencerMove, hi, Host.Outcome.next.injEq] at h
      exact h ▸ hs
    · have hframe := sequencerMove_frame h hc
      intro _
      rw [hframe]
      exact hs ((busy_eq_true_iff s).2 hi)

/-- A STATUS write only clears bits that are 0 while BUSY (R38). -/
theorem writeStatus_hiddenWhileBusy {s : State} (v : Word) (hs : s.HiddenWhileBusy) :
    (s.writeStatus v).HiddenWhileBusy := by
  intro hb
  obtain ⟨hdone, hresult, hkind, hraw, hlen⟩ := hs hb
  exact ⟨by simp [Status.clearedBy, hdone], hresult, hkind, hraw, hlen⟩

/-- Settles O42: the accept clears every result field, and no update of a busy block sets one. -/
theorem resultsStayHiddenWhileBusy : Obligations.ResultsStayHiddenWhileBusy := by
  intro s s' hs h
  refine step_keeps (P := State.HiddenWhileBusy) (hag := fun _ _ h => h) (hresp := fun _ _ h => h)
    (hmove := fun _ _ => sequencerMove_hiddenWhileBusy) (heng := fun _ _ h _ => h) (hover := fun _ h => h)
    (hstat := fun _ v => writeStatus_hiddenWhileBusy v) (hctrl := fun _ _ h _ => h) (hacc := ?accept)
    (hinl := fun _ _ h _ => h) (hkc := fun _ _ h _ => h) (hka := fun _ _ _ h _ => h)
    (hkb := fun _ _ _ h _ => h) (hib := fun _ _ _ h _ _ _ => h) (hlate := fun _ h => h) (hres := ?reset) hs h
  case accept => exact fun _ _ _ _ _ => ⟨rfl, rfl, rfl, rfl, rfl⟩
  case reset => exact fun _ _ hb => absurd rfl ((busy_eq_true_iff _).1 hb)

/-! ## The sequencer's consistency -/

/-- Every stage but IDLE runs a command. -/
theorem Stage.admits_ne_none {st : Stage} {c : Option Instr} (h : st.admits c) (hst : st ≠ .idle) : c ≠ none := by
  rintro rfl
  cases st <;> simp [Stage.admits] at h hst

/-- Outside the engines' stages the port is free. -/
theorem port_idle_of_portFits {st : Stage} {p : Port} (h : portFits st p) (hst : st.usesEngine = false) :
    p = .idle := by
  cases p with
  | idle => rfl
  | requested r => cases r <;> simp only [portFits] at h <;> subst h <;> cases hst
  | answered a =>
    obtain ⟨huses, -⟩ := h
    exact absurd (huses.symm.trans hst) (by decide)

/-- A request's answer fits where the request did: only the key-agreement engines fail. -/
theorem portFits_answer {st : Stage} {r : Request} (h : portFits st (.requested r)) :
    portFits st (.answered (engineAnswer r)) := by
  refine ⟨?uses, fun hf => ?fails⟩
  case uses => cases r <;> simp only [portFits] at h <;> subst h <;> rfl
  case fails => obtain ⟨k, u, rfl⟩ | ⟨d, x, y, rfl⟩ := engineAnswer_fail hf <;> exact h

theorem sequencerInv_of_commit {s : State} (hst : s.stage = .commit) (hcmd : s.cmd ≠ none)
    (hp : s.port = .idle) : s.SequencerInv := by
  simp [State.SequencerInv, hst, hp, hcmd, Stage.admits, portFits, Stage.afterDispatch]

theorem raiseFail_sequencerInv {s : State} (e : ResultCode) (hcmd : s.cmd ≠ none) :
    (s.raiseFail e).SequencerInv :=
  sequencerInv_of_commit rfl hcmd rfl

theorem emit_sequencerInv {s : State} (out : Bytes) (hcmd : s.cmd ≠ none) (hp : s.port = .idle) :
    (s.emit out).SequencerInv :=
  sequencerInv_of_commit rfl hcmd hp

theorem emitChecked_sequencerInv {s : State} (out : Bytes) (hcmd : s.cmd ≠ none) (hp : s.port = .idle) :
    (s.emitChecked out).SequencerInv := by
  obtain ⟨-, e⟩ | ⟨-, e⟩ := emitChecked_cases s out <;> rw [e]
  · exact raiseFail_sequencerInv _ hcmd
  · exact emit_sequencerInv out hcmd hp

/-- An idle sequencer with no command, a free port and an empty scratch. -/
theorem sequencerInv_of_idle {s : State} (hst : s.stage = .idle) (hcmd : s.cmd = none) (hp : s.port = .idle)
    (hc : s.scratch = Scratch.empty) : s.SequencerInv := by
  simp [State.SequencerInv, hst, hp, hcmd, hc, Stage.admits, portFits, Stage.afterDispatch]

/-- The stages of DECONCEAL between CHECK and COMMIT. -/
theorem sequencerInv_of_deconceal {s : State} (hcmd : s.cmd = some .deconceal)
    (hadm : s.stage.admits (some .deconceal)) (hport : portFits s.stage s.port)
    (hprof : s.stage.afterDispatch = true → s.scratch.profile ≠ none)
    (hform : s.stage = .split ∨ s.stage = .keyagree → s.scratch.profile = some .b → s.scratch.form ≠ none) :
    s.SequencerInv :=
  ⟨hcmd ▸ hadm, hport, hprof, hform, fun hidle => by simp [hidle, Stage.admits] at hadm⟩

theorem stageCheck_sequencerInv {s s' : State} (hp : s.port = .idle) (h : stageCheck s = .next s') :
    s'.SequencerInv := by
  obtain ⟨o, r, hcmd, rfl⟩ | ⟨i, hcmd, -, -, rfl⟩ | ⟨i, hcmd, hi, -, rfl⟩ := stageCheck_cases h
  · exact raiseFail_sequencerInv _ (by simp [hcmd])
  · exact raiseFail_sequencerInv _ (by simp [hcmd])
  · cases i with
    | illegal o r => exact absurd rfl (hi o r)
    | deconceal | p256Decompress | p256Compress | tbcdDecode | zeroize =>
      simp [State.SequencerInv, stageAfterCheck, hcmd, hp, Stage.admits, portFits, Stage.afterDispatch]

/-- PARSE leaves the stage for DISPATCH, or ends the command. -/
theorem stageParse_sequencerInv {s : State} (hcmd : s.cmd = some .deconceal) (hp : s.port = .idle) :
    (stageParse s).SequencerInv := by
  have hdispatch (c : Scratch) : ((s.setScratch c).gotoStage .dispatch).SequencerInv :=
    sequencerInv_of_deconceal hcmd rfl (hp ▸ trivial) nofun nofun
  obtain ⟨-, -, e⟩ | ⟨-, -, e⟩ | ⟨-, -, e⟩ | ⟨-, -, e⟩ | e := stageParse_cases s <;> rw [e]
  · exact emit_sequencerInv _ (by simp [hcmd]) hp
  · exact hdispatch _
  · exact raiseFail_sequencerInv _ (by simp [hcmd])
  · exact hdispatch _
  · exact raiseFail_sequencerInv _ (by simp [hcmd])

theorem stageDispatch_sequencerInv {s : State} (hcmd : s.cmd = some .deconceal) (hp : s.port = .idle) :
    (stageDispatch s).SequencerInv := by
  have hchosen (c : Scratch) (q : Profile) (k : Kind) : (chooseProfile s c q k).SequencerInv :=
    sequencerInv_of_deconceal hcmd rfl (hp ▸ trivial) (fun _ => Option.some_ne_none q) nofun
  have hnull (c : Scratch) : (nullScheme s c).SequencerInv :=
    sequencerInv_of_deconceal hcmd rfl (hp ▸ trivial) nofun nofun
  obtain ⟨-, e⟩ | e | e | e | ⟨-, e⟩ := stageDispatch_cases s <;> rw [e]
  · exact emit_sequencerInv _ (by simp [hcmd]) hp
  · exact hnull _
  · exact hchosen _ _ _
  · exact hchosen _ _ _
  · exact raiseFail_sequencerInv _ (by simp [hcmd])

theorem stageHexdec_sequencerInv {s : State} (hcmd : s.cmd = some .deconceal) (hp : s.port = .idle)
    (hprof : s.scratch.profile ≠ none) : (stageHexdec s).SequencerInv := by
  obtain ⟨-, e⟩ | ⟨d, -, e⟩ := stageHexdec_cases s <;> rw [e]
  · exact raiseFail_sequencerInv _ (by simp [hcmd])
  · exact sequencerInv_of_deconceal hcmd rfl (hp ▸ trivial) (fun _ => hprof) nofun

theorem stageKeylen_sequencerInv {s s' : State} (hcmd : s.cmd = some .deconceal) (hp : s.port = .idle)
    (hprof : s.scratch.profile ≠ none) (h : stageKeylen s = .next s') : s'.SequencerInv := by
  obtain ⟨e, -, rfl⟩ | ⟨n, form, hform, -, rfl⟩ := stageKeylen_cases h
  · exact raiseFail_sequencerInv _ (by simp [hcmd])
  · exact sequencerInv_of_deconceal hcmd rfl (hp ▸ trivial) (fun _ => hprof) (fun _ => hform)

/-- Inside a stage the port may take what fits it, and the scratch may change but for its profile and form. -/
theorem State.SequencerInv.of_same_stage {s t : State} (hs : s.SequencerInv) (hst : s.stage ≠ .idle)
    (hstage : t.stage = s.stage) (hcmd : t.cmd = s.cmd) (hprofile : t.scratch.profile = s.scratch.profile)
    (hforms : t.scratch.form = s.scratch.form) (hport : portFits s.stage t.port) : t.SequencerInv := by
  obtain ⟨hadm, -, hprof, hform, -⟩ := hs
  unfold State.SequencerInv
  rw [hstage, hcmd, hprofile, hforms]
  exact ⟨hadm, hport, hprof, hform, fun hidle => absurd hidle hst⟩

/-- KEYAGREE stays with its own request, fails, or hands the shared secret to KDF. -/
theorem stageKeyagree_sequencerInv {s s' : State} (hs : s.SequencerInv) (hst : s.stage = .keyagree)
    (hcmd : s.cmd = some .deconceal) (hprof : s.scratch.profile ≠ none) (h : stageKeyagree s = .next s') :
    s'.SequencerInv := by
  obtain ⟨-, hb⟩ | ⟨r, -, rfl⟩ | ⟨-, rfl⟩ | ⟨z, -, rfl⟩ := stageKeyagree_cases h
  · obtain ⟨e, -, rfl⟩ | ⟨-, -, rfl⟩ | ⟨form, pt, -, -, -, -, rfl⟩ := beginAgreement_cases hb
    · exact raiseFail_sequencerInv _ (by simp [hcmd])
    · exact hs.of_same_stage (by simp [hst]) rfl rfl rfl rfl hst
    · exact hs.of_same_stage (by simp [hst]) rfl rfl rfl rfl hst
  · exact hs
  · exact raiseFail_sequencerInv _ (by simp [hcmd])
  · exact sequencerInv_of_deconceal hcmd rfl trivial (fun _ => hprof) nofun

theorem stageKdf_sequencerInv {s s' : State} (hs : s.SequencerInv) (hst : s.stage = .kdf)
    (hcmd : s.cmd = some .deconceal) (hprof : s.scratch.profile ≠ none) (h : stageKdf s = .next s') :
    s'.SequencerInv := by
  obtain ⟨-, -, rfl⟩ | ⟨hp, -, rfl⟩ | ⟨r, -, rfl⟩ | ⟨z, -, rfl⟩ := stageKdf_cases h
  · exact hs.of_same_stage (by simp [hst]) rfl rfl rfl rfl hst
  · exact sequencerInv_of_deconceal hcmd rfl (hp ▸ trivial) (fun _ => hprof) nofun
  · exact hs
  · exact hs.of_same_stage (by simp [hst]) rfl rfl rfl rfl trivial

theorem stageMac_sequencerInv {s s' : State} (hs : s.SequencerInv) (hst : s.stage = .mac)
    (hcmd : s.cmd = some .deconceal) (hprof : s.scratch.profile ≠ none) (h : stageMac s = .next s') :
    s'.SequencerInv := by
  obtain ⟨-, rfl⟩ | ⟨r, -, rfl⟩ | ⟨tag, -, -, rfl⟩ | ⟨tag, -, -, rfl⟩ := stageMac_cases h
  · exact hs.of_same_stage (by simp [hst]) rfl rfl rfl rfl hst
  · exact hs
  · exact raiseFail_sequencerInv _ (by simp [hcmd])
  · exact sequencerInv_of_deconceal hcmd rfl trivial (fun _ => hprof) nofun

theorem stageDecrypt_sequencerInv {s s' : State} (hs : s.SequencerInv) (hst : s.stage = .decrypt)
    (hcmd : s.cmd = some .deconceal) (hprof : s.scratch.profile ≠ none) (h : stageDecrypt s = .next s') :
    s'.SequencerInv := by
  obtain ⟨-, rfl⟩ | ⟨r, -, rfl⟩ | ⟨z, -, rfl⟩ := stageDecrypt_cases h
  · exact hs.of_same_stage (by simp [hst]) rfl rfl rfl rfl hst
  · exact hs
  · exact sequencerInv_of_deconceal hcmd rfl trivial (fun _ => hprof) nofun

theorem stageAux_sequencerInv {s s' : State} (hcmd : s.cmd ≠ none) (hp : s.port = .idle)
    (h : stageAux s = .next s') : s'.SequencerInv := by
  obtain ⟨e, -, rfl⟩ | ⟨-, rfl⟩ | ⟨out, -, rfl⟩ := stageAux_cases h
  · exact raiseFail_sequencerInv e hcmd
  · exact emit_sequencerInv _ hcmd hp
  · exact emit_sequencerInv out hcmd hp

/-- The completion leaves an idle sequencer (R220, R221). -/
theorem stageCommit_sequencerInv (s : State) : (stageCommit s).SequencerInv := by
  unfold stageCommit
  split <;> exact sequencerInv_of_idle rfl rfl rfl rfl

theorem sequencerMove_sequencerInv {s s' : State} (hs : s.SequencerInv) (h : sequencerMove s = .next s') :
    s'.SequencerInv := by
  obtain ⟨hadm, hport, hprof, hform, -⟩ := id hs
  cases hst : s.stage <;> simp only [sequencerMove, hst, Host.Outcome.next.injEq] at h <;>
    rw [hst] at hadm hport hprof hform
  case idle => exact h ▸ hs
  case check => exact stageCheck_sequencerInv (port_idle_of_portFits hport rfl) h
  case parse => exact h ▸ stageParse_sequencerInv hadm (port_idle_of_portFits hport rfl)
  case dispatch => exact h ▸ stageDispatch_sequencerInv hadm (port_idle_of_portFits hport rfl)
  case hexdec => exact h ▸ stageHexdec_sequencerInv hadm (port_idle_of_portFits hport rfl) (hprof rfl)
  case keylen => exact stageKeylen_sequencerInv hadm (port_idle_of_portFits hport rfl) (hprof rfl) h
  case split =>
    have hp := port_idle_of_portFits hport rfl
    exact h ▸ sequencerInv_of_deconceal hadm rfl (hp ▸ trivial) (fun _ => hprof rfl) fun _ => hform (.inl rfl)
  case keyagree => exact stageKeyagree_sequencerInv hs hst hadm (hprof rfl) h
  case kdf => exact stageKdf_sequencerInv hs hst hadm (hprof rfl) h
  case mac => exact stageMac_sequencerInv hs hst hadm (hprof rfl) h
  case decrypt => exact stageDecrypt_sequencerInv hs hst hadm (hprof rfl) h
  case decode =>
    have hp := port_idle_of_portFits hport rfl
    exact h ▸ sequencerInv_of_deconceal hadm rfl (hp ▸ trivial) nofun nofun
  case assemble =>
    have hcmd := Stage.admits_ne_none hadm (by simp)
    exact h ▸ emitChecked_sequencerInv _ hcmd (port_idle_of_portFits hport rfl)
  case commit => exact h ▸ stageCommit_sequencerInv s
  case aux =>
    have hcmd := Stage.admits_ne_none hadm (by simp)
    exact stageAux_sequencerInv hcmd (port_idle_of_portFits hport rfl) h

theorem accept_sequencerInv (s : State) (i : Instr) : (s.accept i).SequencerInv :=
  ⟨Option.some_ne_none i, trivial, nofun, nofun, nofun⟩

/-- Settles O43: every stage hands on a consistent sequencer, and nothing else moves it but the accept, an engine's
answer and reset. -/
theorem sequencerInvariantIsKept : Obligations.SequencerInvariantIsKept := by
  intro s s' hs h
  refine step_keeps (P := State.SequencerInv) (hag := fun _ _ h => h) (hresp := fun _ _ h => h)
    (hmove := fun _ _ => sequencerMove_sequencerInv) (heng := ?answer) (hover := fun _ h => h)
    (hstat := fun _ _ h => h) (hctrl := fun _ _ h _ => h) (hacc := fun s i _ _ => accept_sequencerInv s i)
    (hinl := fun _ _ h _ => h) (hkc := fun _ _ h _ => h) (hka := fun _ _ _ h _ => h)
    (hkb := fun _ _ _ h _ => h) (hib := fun _ _ _ h _ _ _ => h) (hlate := fun _ h => h) (hres := ?reset) hs h
  case answer =>
    intro t r ht hp
    obtain ⟨-, hport, -⟩ := id ht
    rw [hp] at hport
    have hst : t.stage ≠ .idle := fun hidle => nomatch port_idle_of_portFits hport (hidle ▸ rfl)
    exact ht.of_same_stage hst rfl rfl rfl rfl (portFits_answer hport)
  case reset => exact fun _ _ => sequencerInv_of_idle rfl rfl rfl rfl

end Sys2Proof.Machine
end

section
/-! One legal access of the host: the byte lanes of its word (R72), what its offset names (R32), and what the block
answers (R70, R74). -/

namespace Sys2Proof.Machine

/-! ## Byte lanes -/

theorem byteLane_wordOfLanes (b : Nat → Byte) {k : Nat} (hk : k < 4) : byteLane (wordOfLanes b) k = b k := by
  unfold byteLane wordOfLanes
  interval_cases k <;>
    simp (disch := decide) only [Nat.reduceMul, Nat.reduceSub, BitVec.extractLsb'_append_eq_of_le,
      BitVec.extractLsb'_append_eq_of_add_le, BitVec.extractLsb'_eq_self]

/-- A word is its four lanes. -/
theorem wordOfLanes_byteLane (v : Word) : wordOfLanes (byteLane v) = v := by
  unfold wordOfLanes byteLane
  simp only [Nat.reduceMul]
  rw [BitVec.extractLsb'_append_extractLsb'_eq_extractLsb' (by rfl),
    BitVec.extractLsb'_append_extractLsb'_eq_extractLsb' (by rfl),
    BitVec.extractLsb'_append_extractLsb'_eq_extractLsb' (by rfl)]
  exact BitVec.extractLsb'_eq_self

/-- A word is known by its lanes. -/
theorem wordOfLanes_congr {b c : Nat → Byte} (h : ∀ k < 4, b k = c k) : wordOfLanes b = wordOfLanes c := by
  unfold wordOfLanes
  rw [h 0 (by decide), h 1 (by decide), h 2 (by decide), h 3 (by decide)]

theorem lanesOf_getD (v : Word) {k : Nat} (hk : k < 4) : (lanesOf v).getD k 0 = byteLane v k := by
  interval_cases k <;> rfl

/-! ## The window -/

theorem targetAt_keyA_word (p : Params) {w : Nat} (hw : w < 8) : targetAt p (0x040 + 4 * w) = .keyA w := by
  simp (disch := omega) only [targetAt, if_neg, if_pos]
  congr
  omega

theorem targetAt_keyB_word (p : Params) {w : Nat} (hw : w < 8) : targetAt p (0x060 + 4 * w) = .keyB w := by
  simp (disch := omega) only [targetAt, if_neg, if_pos]
  congr
  omega

theorem targetAt_inBuf_word {p : Params} {i : Nat} (hi : i < p.inBufSize) :
    targetAt p (0x400 + i) = .inBuf i := by
  unfold targetAt Config.inBufBase
  simp (disch := omega) only [if_neg, if_pos, Nat.add_sub_cancel_left]

/-- OUT_BUF begins where IN_BUF's area ends (R9, R32). -/
theorem targetAt_outBuf_word {p : Params} {i : Nat} (hp : p.inBufSize ≤ 0x400) (hi : i < p.outBufSize) :
    targetAt p (0x800 + i) = .outBuf i := by
  unfold targetAt Config.inBufBase Config.outBufBase
  simp (disch := omega) only [if_neg, if_pos, Nat.add_sub_cancel_left]

/-- R47: an offset that no register, slot or buffer has. -/
def reservedOffset (p : Params) (off : Nat) : Prop :=
  (0x020 ≤ off ∧ off ≤ 0x03C) ∨ (0x080 ≤ off ∧ off ≤ 0x3FC) ∨ 0xC00 ≤ off ∨
    (0x400 + p.inBufSize ≤ off ∧ off ≤ 0x7FC) ∨ (0x800 + p.outBufSize ≤ off ∧ off ≤ 0xBFC)

theorem targetAt_reserved {p : Params} {off : Nat} (hin : p.inBufSize ≤ 0x400) (hout : p.outBufSize ≤ 0x400)
    (h : reservedOffset p off) : targetAt p off = .reserved := by
  unfold reservedOffset at h
  unfold targetAt Config.inBufBase Config.outBufBase
  simp (disch := omega) only [if_neg]

/-! ## Legal accesses -/

/-- A legal read answers its target's word (R70). -/
theorem busRead_word {s : State} {off : Nat} {w : Word} (t : Target) (ht : targetAt s.params off = t)
    (hoff : off < 0x1000) (h4 : off % 4 = 0) (hw : s.readRegister t = w) :
    busRead (s.params.baseAddr + off) 4 s = .next (s.respond (.read .okay w)) := by
  rw [busRead_of_offset (windowOffset_add hoff), if_pos ((legalAccess_iff off 4).2 ⟨rfl, h4⟩), ht, hw]

/-- A legal write acts on its target (R70). -/
theorem busWrite_word {s : State} {off : Nat} (v : Word) (t : Target) (ht : targetAt s.params off = t)
    (hoff : off < 0x1000) (h4 : off % 4 = 0) :
    busWrite (s.params.baseAddr + off) 4 v s = .next ((s.writeRegister t v).respond (.write .okay)) := by
  rw [busWrite_of_offset v (windowOffset_add hoff), if_pos ((legalAccess_iff off 4).2 ⟨rfl, h4⟩), ht]

/-- An idle block carries a write out (R300). -/
theorem unlessBusy_of_idle {s : State} (e : State) (h : s.busy = false) : s.unlessBusy e = e := by
  simp [State.unlessBusy, h]

end Sys2Proof.Machine
end

section
/-! The registers made of fields (R33 to R41, R48): what each reads as, what a write of each does, and the reset
values. -/

namespace Sys2Proof.Machine

/-! ## The words of the field registers -/

/-- A word of two bits, as CTRL and KEYCTL are (R35, R41). -/
theorem twoBits_getLsbD (a b : Bool) (n : Nat) :
    ((0 : BitVec 30) ++ BitVec.ofBool b ++ BitVec.ofBool a).getLsbD n =
      if n = 0 then a else if n = 1 then b else false := by
  rw [BitVec.getLsbD_append, BitVec.getLsbD_append]
  match n with
  | 0 => simp
  | 1 => simp
  | n + 2 => simp

theorem ctrlWord_getLsbD (c : Ctrl) (n : Nat) :
    (ctrlWord c).getLsbD n = if n = 0 then c.irqEn else if n = 1 then c.legacyNullFallback else false :=
  twoBits_getLsbD _ _ n

theorem keyctlWord_getLsbD (s : State) (n : Nat) :
    s.keyctlWord.getLsbD n = if n = 0 then s.slotA.valid else if n = 1 then s.slotB.valid else false :=
  twoBits_getLsbD _ _ n

theorem mask3_getLsbD (n : Nat) : (0x00000003 : Word).getLsbD (n + 2) = false :=
  Nat.testBit_lt_two_pow (Nat.lt_of_lt_of_le (by decide : 3 < 2 ^ 2) (Nat.pow_le_pow_right (by decide) (by omega)))

/-- CTRL keeps the two bits it has (R35). -/
theorem ctrlWord_ctrlOf (v : Word) : ctrlWord (ctrlOf v) = v &&& 0x00000003 := by
  apply BitVec.eq_of_getLsbD_eq
  intro n _
  rw [ctrlWord_getLsbD, BitVec.getLsbD_and]
  match n with
  | 0 => simp [ctrlOf]
  | 1 => simp [ctrlOf]
  | n + 2 => rw [mask3_getLsbD]; simp

/-- IN_LEN keeps the sixteen bits it has (R39). -/
theorem setWidth_setWidth_eq_and (v : Word) : (v.setWidth 16).setWidth 32 = v &&& 0x0000FFFF := by
  apply BitVec.eq_of_toNat_eq
  rw [BitVec.toNat_setWidth, BitVec.toNat_setWidth, BitVec.toNat_and, Nat.mod_eq_of_lt (by omega)]
  exact (Nat.and_two_pow_sub_one_eq_mod v.toNat 16).symm

/-- The single bits of STATUS (R37). -/
theorem statusWord_getLsbD (s : State) :
    s.statusWord.getLsbD 0 = s.busy ∧ s.statusWord.getLsbD 1 = s.status.done ∧
      s.statusWord.getLsbD 2 = s.status.overrun ∧ s.statusWord.getLsbD 19 = s.status.raw := by
  unfold State.statusWord
  simp only [BitVec.getLsbD_append]
  simp

/-- The wider fields of STATUS, and the bits it does not have (R37). -/
theorem statusWord_extractLsb' (s : State) :
    s.statusWord.extractLsb' 3 5 = 0 ∧ s.statusWord.extractLsb' 8 8 = resultCode s.status.result ∧
      s.statusWord.extractLsb' 16 3 = kindCode s.status.kind ∧ s.statusWord.extractLsb' 20 12 = 0 := by
  unfold State.statusWord
  simp (disch := decide) only [Nat.reduceSub, BitVec.extractLsb'_append_eq_of_le,
    BitVec.extractLsb'_append_eq_of_add_le, BitVec.extractLsb'_eq_self, and_self]

/-- A STATUS write, bit by bit (R38). -/
theorem clearedBy_eq (t : Status) (v : Word) :
    t.clearedBy v =
      { t with
        done := if v.getLsbD 1 then false else t.done
        overrun := if v.getLsbD 2 then false else t.overrun } := by
  unfold Status.clearedBy
  cases v.getLsbD 1 <;> cases v.getLsbD 2 <;> simp

/-- KEYCTL's two bits on one slot: CLEAR wins, then COMMIT, and without both the slot stays (R41). -/
theorem controlledBy_cases (k : KeySlot) (commit clear : Bool) :
    (clear = true → k.controlledBy commit clear = { key := Vector.replicate 32 0, valid := false }) ∧
      (clear = false → commit = true → k.controlledBy commit clear = { k with valid := true }) ∧
      (clear = false → commit = false → k.controlledBy commit clear = k) := by
  refine ⟨?clear, ?commit, ?neither⟩
  case clear => rintro rfl; rfl
  case commit => rintro rfl rfl; rfl
  case neither => rintro rfl rfl; rfl

/-! ## The obligations -/

/-- Settles O25: both registers are constants of `readRegister`, and `writeRegister` has no effect on them. -/
theorem idAndVersionAreConstant : Obligations.IdAndVersionAreConstant := fun _ =>
  ⟨busRead_word .id rfl (by decide) rfl rfl, busRead_word .version rfl (by decide) rfl rfl,
    fun v => ⟨busWrite_word v .id rfl (by decide) rfl, busWrite_word v .version rfl (by decide) rfl⟩⟩

/-- Settles O26: a write of STATUS is `Status.clearedBy`, whether or not the block is busy. -/
theorem statusWriteClearsDoneAndOverrun : Obligations.StatusWriteClearsDoneAndOverrun := by
  intro s v
  rw [busWrite_word v .status rfl (by decide) rfl]
  show Host.Outcome.next ((s.writeStatus v).respond (.write .okay)) = _
  unfold State.writeStatus
  rw [clearedBy_eq]
  rfl

/-- Settles O27: the two words bit by bit, and what is left of a written word. -/
theorem ctrlAndInLenReadBack : Obligations.CtrlAndInLenReadBack := by
  refine ⟨fun s => ⟨⟨_, busRead_word .ctrl rfl (by decide) rfl rfl, ctrlWord_getLsbD s.ctrl⟩,
    busRead_word .inLen rfl (by decide) rfl rfl⟩, fun s v hb => ⟨?ctrl, ?inLen⟩⟩
  case ctrl =>
    refine ⟨_, busWrite_word v .ctrl rfl (by decide) rfl, ?_⟩
    rw [State.writeRegister, unlessBusy_of_idle _ hb]
    exact ⟨busRead_word (s := (s.writeCtrl v).respond (.write .okay)) .ctrl rfl (by decide) rfl (ctrlWord_ctrlOf v),
      rfl, rfl, rfl⟩
  case inLen =>
    refine ⟨_, busWrite_word v .inLen rfl (by decide) rfl, ?_⟩
    rw [State.writeRegister, unlessBusy_of_idle _ hb]
    have hlow : v.setWidth 16 = v.extractLsb' 0 16 := BitVec.setWidth_eq_extractLsb' (by decide)
    exact ⟨busRead_word (s := (s.writeInLen v).respond (.write .okay)) .inLen rfl (by decide) rfl
      (setWidth_setWidth_eq_and v), hlow, rfl⟩

/-- Settles O28: KEYCTL acts on each slot by `KeySlot.controlledBy`. -/
theorem keyctlCommitsAndClears : Obligations.KeyctlCommitsAndClears := by
  refine ⟨fun s => ⟨_, busRead_word .keyctl rfl (by decide) rfl rfl, keyctlWord_getLsbD s⟩, fun s v hb => ?_⟩
  refine ⟨_, busWrite_word v .keyctl rfl (by decide) rfl, ?_⟩
  rw [State.writeRegister, unlessBusy_of_idle _ hb]
  obtain ⟨hclearA, hcommitA, hstayA⟩ := controlledBy_cases s.slotA (v.getLsbD 8) (v.getLsbD 16)
  obtain ⟨hclearB, hcommitB, hstayB⟩ := controlledBy_cases s.slotB (v.getLsbD 9) (v.getLsbD 17)
  exact ⟨hclearA, hcommitA, hstayA, hclearB, hcommitB, hstayB, rfl⟩

theorem resultCode_range (c : ResultCode) :
    (resultCode c).toNat ≤ 0x08 ∨ (0x10 ≤ (resultCode c).toNat ∧ (resultCode c).toNat ≤ 0x12) := by
  cases c <;> decide

theorem kindCode_le (k : Kind) : (kindCode k).toNat ≤ 5 := by
  cases k <;> decide

/-- The interrupt output is bit 0 of CTRL and bit 1 of STATUS (R48). -/
theorem irq_eq_and (s : State) : s.irq = ((ctrlWord s.ctrl).getLsbD 0 && s.statusWord.getLsbD 1) := by
  obtain ⟨-, hdone, -, -⟩ := statusWord_getLsbD s
  rw [ctrlWord_getLsbD, hdone]
  rfl

/-- Settles O37: the fields of the STATUS word, and the two tables of numbers. -/
theorem statusWordAndIrq : Obligations.StatusWordAndIrq := by
  refine ⟨fun s => ?_, rfl, rfl, rfl, rfl, rfl, rfl, rfl, rfl, rfl, rfl, rfl, rfl, rfl, rfl, rfl, rfl, rfl, rfl, rfl,
    resultCode_range, kindCode_le⟩
  obtain ⟨hbusy, hdone, hover, hraw⟩ := statusWord_getLsbD s
  obtain ⟨hgap, hresult, hkind, htop⟩ := statusWord_extractLsb' s
  exact ⟨_, _, busRead_word .ctrl rfl (by decide) rfl rfl, busRead_word .status rfl (by decide) rfl rfl, hbusy, hdone,
    hover, hgap, hresult, hkind, hraw, htop, irq_eq_and s⟩

/-- Settles O38: a CMD write to an idle block is `State.accept`. -/
theorem commandWriteIsAccepted : Obligations.CommandWriteIsAccepted := by
  refine ⟨fun s => busRead_word .cmd rfl (by decide) rfl rfl, fun s v hb => ?_⟩
  refine ⟨_, busWrite_word v .cmd rfl (by decide) rfl, ?_⟩
  rw [State.writeRegister, unlessBusy_of_idle _ hb]
  have hirq : ((s.accept (decodeWord v)).respond (.write .okay)).irq = false := Bool.and_false _
  exact ⟨rfl, rfl, rfl, rfl, rfl, rfl, rfl, rfl, rfl, rfl, rfl, rfl, rfl, rfl, hirq, rfl⟩

/-- Where OUT_LEN is 0 every word of OUT_BUF reads 0 (R46). -/
theorem readRegister_outBuf_of_outLen_zero {s : State} (h : s.outLen = 0) (i : Nat) :
    s.readRegister (.outBuf i) = 0 := by
  have hbyte (k : Nat) : s.outByte k = 0 := by simp [State.outByte, h]
  simp only [State.readRegister, hbyte]
  rfl

/-- Settles O39, register by register. -/
theorem resetValues : Obligations.ResetValues :=
  ⟨busRead_word .id rfl (by decide) rfl rfl, busRead_word .version rfl (by decide) rfl rfl,
    busRead_word .ctrl rfl (by decide) rfl rfl, busRead_word .cmd rfl (by decide) rfl rfl,
    busRead_word .status rfl (by decide) rfl rfl, busRead_word .inLen rfl (by decide) rfl rfl,
    busRead_word .outLen rfl (by decide) rfl rfl, busRead_word .keyctl rfl (by decide) rfl rfl,
    rfl, rfl, rfl, rfl, rfl, rfl, fun w => readRegister_outBuf_of_outLen_zero rfl (4 * w)⟩

end Sys2Proof.Machine
end

section
/-! The key words and the buffers on the bus (R42, R43, R45, R46, R47, R52, R72): what a read of them answers and what
a write of them stores. -/

namespace Sys2Proof.Machine

/-! ## Key words -/

/-- A written key word replaces its own four bytes and no other (R42, R43, R72). -/
theorem withWord_getElem (k : KeySlot) (w : Nat) (v : Word) {j : Nat} (hj : j < 32) :
    (k.withWord w v).key[j] = if j / 4 = w then v.extractLsb' (8 * (j % 4)) 8 else k.key[j] := by
  simp only [KeySlot.withWord, Vector.getElem_setIfInBounds]
  by_cases hw : j / 4 = w
  · obtain h | h | h | h : j % 4 = 0 ∨ j % 4 = 1 ∨ j % 4 = 2 ∨ j % 4 = 3 := by omega
    all_goals
      simp (disch := omega) only [hw, h, if_pos, if_neg]
      rfl
  · simp (disch := omega) only [if_neg]

theorem busRead_keyA_word {p : Params} {s : State} {w : Nat} (hp : s.params = p) (hw : w < 8) :
    busRead (p.baseAddr + 0x040 + 4 * w) 4 s = .next (s.respond (.read .okay 0)) := by
  subst hp
  rw [Nat.add_assoc]
  exact busRead_word (.keyA w) (targetAt_keyA_word _ hw) (by omega) (by omega) rfl

theorem busWrite_keyA_word {s : State} {w : Nat} (v : Word) (hb : s.busy = false) (hw : w < 8) :
    busWrite (s.params.baseAddr + 0x040 + 4 * w) 4 v s = .next ((s.writeKeyA w v).respond (.write .okay)) := by
  rw [Nat.add_assoc, busWrite_word v (.keyA w) (targetAt_keyA_word _ hw) (by omega) (by omega),
    State.writeRegister, unlessBusy_of_idle _ hb]

theorem busRead_keyB_word {p : Params} {s : State} {w : Nat} (hp : s.params = p) (hw : w < 8) :
    busRead (p.baseAddr + 0x060 + 4 * w) 4 s = .next (s.respond (.read .okay 0)) := by
  subst hp
  rw [Nat.add_assoc]
  exact busRead_word (.keyB w) (targetAt_keyB_word _ hw) (by omega) (by omega) rfl

theorem busWrite_keyB_word {s : State} {w : Nat} (v : Word) (hb : s.busy = false) (hw : w < 8) :
    busWrite (s.params.baseAddr + 0x060 + 4 * w) 4 v s = .next ((s.writeKeyB w v).respond (.write .okay)) := by
  rw [Nat.add_assoc, busWrite_word v (.keyB w) (targetAt_keyB_word _ hw) (by omega) (by omega),
    State.writeRegister, unlessBusy_of_idle _ hb]

/-- A write of a key word changes its own slot, and answers on the bus (R42, R43, R70). -/
theorem writeKeyA_respond_eq (s : State) (w : Nat) (v : Word) (r : Response) :
    (s.writeKeyA w v).respond r =
      { s with slotA := ((s.writeKeyA w v).respond r).slotA, response := some r } := by
  unfold State.writeKeyA
  generalize s.slotA.withWord w v = k
  rfl

/-- A write of a key word changes its own slot, and answers on the bus (R42, R43, R70). -/
theorem writeKeyB_respond_eq (s : State) (w : Nat) (v : Word) (r : Response) :
    (s.writeKeyB w v).respond r =
      { s with slotB := ((s.writeKeyB w v).respond r).slotB, response := some r } := by
  unfold State.writeKeyB
  generalize s.slotB.withWord w v = k
  rfl

/-- Settles O29: a key word reads as the constant 0, and a write of it is `KeySlot.withWord` on its own slot. -/
theorem keyWordsStoreAndInvalidate : Obligations.KeyWordsStoreAndInvalidate :=
  ⟨fun _ _ hw => ⟨busRead_keyA_word rfl hw, busRead_keyB_word rfl hw⟩,
    fun s v w hb hw =>
      ⟨⟨_, busWrite_keyA_word v hb hw, rfl, fun _ hj => withWord_getElem s.slotA w v hj,
          writeKeyA_respond_eq s w v _, busRead_keyA_word (by simp) hw⟩,
        ⟨_, busWrite_keyB_word v hb hw, rfl, fun _ hj => withWord_getElem s.slotB w v hj,
          writeKeyB_respond_eq s w v _, busRead_keyB_word (by simp) hw⟩⟩⟩

/-! ## The buffers -/

/-- A written IN_BUF word reads as its lanes (R45, R72). -/
theorem writeInBuf_inByte (s : State) (i : Nat) (v : Word) {k : Nat} (hk : k < 4) :
    (s.writeInBuf i v).inByte (i + k) = byteLane v k := by
  have hoff : 0x400 + (i + k) - (0x400 + i) = k := by omega
  calc (s.writeInBuf i v).inByte (i + k) = (lanesOf v).getD (0x400 + (i + k) - (0x400 + i)) 0 :=
        (writeInBuf_byteAt s i v (0x400 + (i + k))).trans (if_pos (by omega))
    _ = byteLane v k := by rw [hoff, lanesOf_getD v hk]

theorem busRead_inBuf_word {s : State} {w : Nat} {v : Word} (hp : s.params.wf) (hw : 4 * w < s.params.inBufSize)
    (hv : wordOfLanes (fun k => s.inByte (4 * w + k)) = v) :
    busRead (s.params.baseAddr + 0x400 + 4 * w) 4 s = .next (s.respond (.read .okay v)) := by
  obtain ⟨-, -, hsize, -⟩ := hp
  rw [Nat.add_assoc]
  exact busRead_word (.inBuf (4 * w)) (targetAt_inBuf_word hw) (by omega) (by omega) hv

theorem busWrite_inBuf_word {s : State} {w : Nat} (v : Word) (hp : s.params.wf) (hb : s.busy = false)
    (hw : 4 * w < s.params.inBufSize) :
    busWrite (s.params.baseAddr + 0x400 + 4 * w) 4 v s =
      .next ((s.writeInBuf (4 * w) v).respond (.write .okay)) := by
  obtain ⟨-, -, hsize, -⟩ := hp
  rw [Nat.add_assoc, busWrite_word v (.inBuf (4 * w)) (targetAt_inBuf_word hw) (by omega) (by omega),
    State.writeRegister, unlessBusy_of_idle _ hb]

/-- Settles O30: IN_BUF's word is its four bytes, and a write stores the four lanes of its word. -/
theorem inBufWordReadsBack : Obligations.InBufWordReadsBack := by
  refine ⟨fun s w hp hw => ⟨_, busRead_inBuf_word hp hw rfl, fun k hk => byteLane_wordOfLanes _ hk⟩,
    fun s v w hp hb hw => ⟨_, busWrite_inBuf_word v hp hb hw, ?stored, ?outside, rfl, ?readBack⟩⟩
  case stored => exact fun k hk => writeInBuf_inByte s (4 * w) v hk
  case outside => exact fun a ha => (writeInBuf_byteAt s (4 * w) v a).trans (if_neg ha)
  case readBack =>
    have hword := (wordOfLanes_congr fun k hk => writeInBuf_inByte s (4 * w) v hk).trans (wordOfLanes_byteLane v)
    exact busRead_inBuf_word (s := (s.writeInBuf (4 * w) v).respond (.write .okay)) hp hw hword

theorem busRead_outBuf_word {s : State} {w : Nat} (hp : s.params.wf) (hw : 4 * w < s.params.outBufSize) :
    busRead (s.params.baseAddr + 0x800 + 4 * w) 4 s =
      .next (s.respond (.read .okay (wordOfLanes fun k => s.outByte (4 * w + k)))) := by
  obtain ⟨-, -, hin, -, hout, -⟩ := hp
  rw [Nat.add_assoc]
  exact busRead_word (.outBuf (4 * w)) (targetAt_outBuf_word hin hw) (by omega) (by omega) rfl

theorem busWrite_outBuf_word {s : State} {w : Nat} (v : Word) (hp : s.params.wf)
    (hw : 4 * w < s.params.outBufSize) :
    busWrite (s.params.baseAddr + 0x800 + 4 * w) 4 v s = .next (s.respond (.write .okay)) := by
  obtain ⟨-, -, hin, -, hout, -⟩ := hp
  rw [Nat.add_assoc]
  exact busWrite_word v (.outBuf (4 * w)) (targetAt_outBuf_word hin hw) (by omega) (by omega)

/-- Settles O31: OUT_BUF's word is its four masked bytes, and `writeRegister` has no effect on either target. -/
theorem outBufReadsAreMasked : Obligations.OutBufReadsAreMasked :=
  ⟨fun _ => ⟨busRead_word .outLen rfl (by decide) rfl rfl, fun v => busWrite_word v .outLen rfl (by decide) rfl⟩,
    fun _ _ hp hw => ⟨⟨_, busRead_outBuf_word hp hw, fun _ hk => byteLane_wordOfLanes _ hk⟩,
      fun v => busWrite_outBuf_word v hp hw⟩⟩

/-- Settles O32: each of these offsets names the target `reserved`. -/
theorem reservedOffsetsReadZeroIgnoreWrites : Obligations.ReservedOffsetsReadZeroIgnoreWrites := by
  intro s off hp h4 hoff hreserved
  obtain ⟨-, -, hin, -, hout, -⟩ := hp
  have ht : targetAt s.params off = .reserved := targetAt_reserved hin hout hreserved
  exact ⟨busRead_word .reserved ht hoff h4 rfl, fun v => busWrite_word v .reserved ht hoff h4⟩

/-! ## What a read depends on -/

/-- A buffer byte depends on the memory and the draw alone (R45). -/
theorem byteAt_congr {s t : State} (hm : s.mem = t.mem) (hd : s.draw = t.draw) (a : Nat) :
    s.byteAt a = t.byteAt a := by
  unfold State.byteAt
  rw [hm, hd]

/-- A read depends on nothing but the registers' fields, BUSY, the two valid bits and the buffers (R42, R43, R52). -/
theorem readRegister_congr {s t : State} (hctrl : s.ctrl = t.ctrl) (hstatus : s.status = t.status)
    (hin : s.inLen = t.inLen) (hout : s.outLen = t.outLen) (hA : s.slotA.valid = t.slotA.valid)
    (hB : s.slotB.valid = t.slotB.valid) (hm : s.mem = t.mem) (hd : s.draw = t.draw) (hb : s.busy = t.busy)
    (r : Target) : s.readRegister r = t.readRegister r := by
  cases r with
  | id | version | cmd | keyA | keyB | reserved => rfl
  | ctrl => simp only [State.readRegister, hctrl]
  | status => simp only [State.readRegister, State.statusWord, hstatus, hb]
  | inLen => simp only [State.readRegister, hin]
  | outLen => simp only [State.readRegister, hout]
  | keyctl => simp only [State.readRegister, State.keyctlWord, hA, hB]
  | inBuf i => simp only [State.readRegister, State.inByte, byteAt_congr hm hd]
  | outBuf i => simp only [State.readRegister, State.outByte, byteAt_congr hm hd, hout]

/-- Settles O36: both reads name the same target, whose word is the same. -/
theorem readsRevealNoKeyOrScratch : Obligations.ReadsRevealNoKeyOrScratch := by
  intro s t addr width hp hctrl hstatus hin hout hA hB hm hd hb hwindow
  obtain ⟨off, hoff⟩ := Option.ne_none_iff_exists'.1 hwindow
  refine ⟨_, busRead_of_offset hoff, ?_⟩
  rw [readRegister_congr hctrl hstatus hin hout hA hB hm hd hb, hp]
  exact busRead_of_offset (hp ▸ hoff)

end Sys2Proof.Machine
end

section
/-! What a step can do to the key slots and to IN_BUF (R41 to R45, R245, R290): the moves, the writes, the step. -/

namespace Sys2Proof.Machine

/-- `t` holds the key slots and the IN_BUF bytes of `s`. The area of IN_BUF ends where OUT_BUF begins (R32). -/
structure State.SameStorage (s t : State) : Prop where
  slotA : t.slotA = s.slotA
  slotB : t.slotB = s.slotB
  inByte : ∀ i < 0x400, t.inByte i = s.inByte i

theorem State.SameStorage.trans {s t u : State} (h : s.SameStorage t) (h' : t.SameStorage u) : s.SameStorage u :=
  ⟨h'.slotA.trans h.slotA, h'.slotB.trans h.slotB, fun i hi => (h'.inByte i hi).trans (h.inByte i hi)⟩

/-- Where the slots, the memory and the draw stay, so does what they hold. -/
theorem sameStorage_of_frame {s t : State} (hA : t.slotA = s.slotA) (hB : t.slotB = s.slotB) (hm : t.mem = s.mem)
    (hd : t.draw = s.draw) : s.SameStorage t :=
  ⟨hA, hB, fun i _ => byteAt_congr hm hd (Config.inBufBase + i)⟩

/-- A completion writes OUT_BUF alone (R220). -/
theorem complete_sameStorage (s : State) (q : Pending) : s.SameStorage (s.complete q) := by
  refine ⟨rfl, rfl, fun i hi => ?_⟩
  by_cases hq : q.code = .ok
  · refine (complete_byteAt_ok s hq (0x400 + i)).trans (if_neg ?_)
    omega
  · exact complete_byteAt_fail s hq (0x400 + i)

/-! ## Moves -/

/-- No move but ZEROIZE's completion touches the slots or IN_BUF (R44, R45, R245). -/
theorem sequencerMove_sameStorage {s s' : State} (h : sequencerMove s = .next s')
    (hz : ¬ (s.stage = .commit ∧ s.cmd = some .zeroize)) : s.SameStorage s' := by
  by_cases hc : s.stage = .commit
  · rw [sequencerMove_commit hc, stageCommit_of_ne fun hcmd => hz ⟨hc, hcmd⟩, Host.Outcome.next.injEq] at h
    exact h ▸ complete_sameStorage s _
  · rw [sequencerMove_frame h hc]
    exact sameStorage_of_frame rfl rfl rfl rfl

/-- A move keeps the command, or completes it. -/
theorem sequencerMove_cmd {s s' : State} (h : sequencerMove s = .next s') : s'.cmd = s.cmd ∨ s'.cmd = none := by
  by_cases hc : s.stage = .commit
  · rw [sequencerMove_commit hc, Host.Outcome.next.injEq] at h
    subst h
    unfold stageCommit
    split <;> exact .inr rfl
  · rw [sequencerMove_frame h hc]
    exact .inl rfl

/-- However many moves a command other than ZEROIZE makes, the slots and IN_BUF stay. -/
theorem settle_sameStorage {n : Nat} {s s' : State} (hcmd : s.cmd ≠ some .zeroize) (h : settle n s = .next s') :
    s.SameStorage s' := by
  induction n generalizing s with
  | zero =>
    rw [settle_zero, Host.Outcome.next.injEq] at h
    exact h ▸ sameStorage_of_frame rfl rfl rfl rfl
  | succ n ih =>
    rcases ownMove_cases s with ⟨r, -, e⟩ | ⟨-, e⟩
    · rw [settle_succ n e] at h
      have hanswer : s.SameStorage (s.deliver (engineAnswer r)) := sameStorage_of_frame rfl rfl rfl rfl
      exact hanswer.trans (ih hcmd h)
    · cases hm : sequencerMove s with
      | next t =>
        rw [settle_succ n (e.trans hm)] at h
        have hcmd' : t.cmd ≠ some .zeroize := by
          rcases sequencerMove_cmd hm with ht | ht <;> rw [ht]
          · exact hcmd
          · exact nofun
        exact (sequencerMove_sameStorage hm fun hz => hcmd hz.2).trans (ih hcmd' h)
      | fault f => simp [settle, e, hm] at h
      | refused r => simp [settle, e, hm] at h

/-- A `run` changes them only where an idle block runs ZEROIZE (R245, R300). -/
theorem runCommand_sameStorage {s s' : State} {i : Instr} (h : runCommand i s = .next s')
    (hz : ¬ (s.busy = false ∧ i = .zeroize)) : s.SameStorage s' := by
  cases hb : s.busy with
  | true =>
    rw [runCommand_of_busy i hb, Host.Outcome.next.injEq] at h
    exact h ▸ sameStorage_of_frame rfl rfl rfl rfl
  | false =>
    rw [runCommand_of_idle i hb] at h
    have hcmd : ((s.accept i).respond (.write .okay)).cmd ≠ some .zeroize := fun hi => hz ⟨hb, Option.some.inj hi⟩
    have haccept : s.SameStorage ((s.accept i).respond (.write .okay)) := sameStorage_of_frame rfl rfl rfl rfl
    exact haccept.trans (settle_sameStorage hcmd h)

/-! ## Writes -/

/-- A write of any target but these changes neither a slot nor IN_BUF, and while BUSY none does (R44, R45, R300). -/
theorem writeRegister_storage_cases (s : State) (t : Target) (v : Word) :
    s.SameStorage (s.writeRegister t v) ∨
      (s.busy = false ∧
        ((t = .keyctl ∧ s.writeRegister t v = s.writeKeyctl v) ∨
          (∃ w, t = .keyA w ∧ s.writeRegister t v = s.writeKeyA w v) ∨
          (∃ w, t = .keyB w ∧ s.writeRegister t v = s.writeKeyB w v) ∨
          ∃ i, t = .inBuf i ∧ s.writeRegister t v = s.writeInBuf i v)) := by
  have hframe {u : State} (e : s.writeRegister t v = u) (hA : u.slotA = s.slotA) (hB : u.slotB = s.slotB)
      (hm : u.mem = s.mem) (hd : u.draw = s.draw) : s.SameStorage (s.writeRegister t v) :=
    e ▸ sameStorage_of_frame hA hB hm hd
  obtain ⟨-, e⟩ | ⟨-, e⟩ | ⟨-, e⟩ | ⟨hb, ⟨-, e⟩ | ⟨-, e⟩ | ⟨-, e⟩ | hstorage⟩ := writeRegister_cases s t v
  · exact .inl (hframe e rfl rfl rfl rfl)
  · exact .inl (hframe e rfl rfl rfl rfl)
  · exact .inl (hframe e rfl rfl rfl rfl)
  · exact .inl (hframe e rfl rfl rfl rfl)
  · exact .inl (hframe e rfl rfl rfl rfl)
  · exact .inl (hframe e rfl rfl rfl rfl)
  · exact .inr ⟨hb, hstorage⟩

/-- A slot changes only by a write of KEYCTL or of a key word to an idle block (R41 to R44). -/
theorem writeRegister_slots_cases {s : State} {off : Nat} {v : Word}
    (h : (s.writeRegister (targetAt s.params off) v).slotA ≠ s.slotA ∨
      (s.writeRegister (targetAt s.params off) v).slotB ≠ s.slotB) :
    s.busy = false ∧ (off = 0x01C ∨ (0x040 ≤ off ∧ off < 0x080)) := by
  obtain hsame | ⟨hb, ⟨ht, -⟩ | ⟨w, ht, -⟩ | ⟨w, ht, -⟩ | ⟨i, -, e⟩⟩ :=
    writeRegister_storage_cases s (targetAt s.params off) v
  · exact absurd h (not_or.2 ⟨not_not.2 hsame.slotA, not_not.2 hsame.slotB⟩)
  · exact ⟨hb, .inl (targetAt_keyctl ht)⟩
  · obtain ⟨hlo, hhi, -⟩ := targetAt_keyA ht
    exact ⟨hb, .inr (by omega)⟩
  · obtain ⟨hlo, hhi, -⟩ := targetAt_keyB ht
    exact ⟨hb, .inr (by omega)⟩
  · rw [e] at h
    exact absurd h (not_or.2 ⟨not_not.2 rfl, not_not.2 rfl⟩)

/-- A byte of IN_BUF changes only by a write of its own word to an idle block (R45). -/
theorem writeRegister_inByte_cases {s : State} {off i : Nat} {v : Word} (h4 : off % 4 = 0) (hi : i < 0x400)
    (h : (s.writeRegister (targetAt s.params off) v).inByte i ≠ s.inByte i) :
    s.busy = false ∧ off = 0x400 + 4 * (i / 4) := by
  have hframe {u : State} (e : s.writeRegister (targetAt s.params off) v = u) (hm : u.mem = s.mem)
      (hd : u.draw = s.draw) : False := h (e ▸ byteAt_congr hm hd (Config.inBufBase + i))
  obtain hsame | ⟨hb, ⟨-, e⟩ | ⟨w, -, e⟩ | ⟨w, -, e⟩ | ⟨j, ht, e⟩⟩ :=
    writeRegister_storage_cases s (targetAt s.params off) v
  · exact absurd (hsame.inByte i hi) h
  · exact (hframe e (s.writeKeyctl_mem v) (s.writeKeyctl_draw v)).elim
  · exact (hframe e (s.writeKeyA_mem w v) (s.writeKeyA_draw w v)).elim
  · exact (hframe e (s.writeKeyB_mem w v) (s.writeKeyB_draw w v)).elim
  · obtain ⟨hoff, -⟩ := targetAt_inBuf ht
    have hin : j ≤ i ∧ i < j + 4 := by
      by_contra hout
      rw [e] at h
      exact h ((writeInBuf_byteAt s j v (0x400 + i)).trans (if_neg (by omega)))
    exact ⟨hb, by omega⟩

/-! ## Steps -/

/-- A step that touches the slots or IN_BUF is a reset, ZEROIZE in one of its two forms, or a legal write. -/
theorem step_storage_cases {s s' : State} (h : step s = .next s') :
    s.SameStorage s' ∨
      (∃ rest, s.agenda = .reset :: rest) ∨
      (∃ v rest, s.agenda = .run v :: rest ∧ s.busy = false ∧ decodeWord v = .zeroize) ∨
      (s.stage = .commit ∧ s.cmd = some .zeroize ∧ (s.agenda = [] ∨ ∃ rest, s.agenda = .sequencerMove :: rest)) ∨
      ∃ addr v rest off, s.agenda = .write addr 4 v :: rest ∧ windowOffset s.params addr = some off ∧ off % 4 = 0 ∧
        s' = ((s.setAgenda rest).writeRegister (targetAt s.params off) v).respond (.write .okay) := by
  have hkeep {u : State} (hA : u.slotA = s.slotA) (hB : u.slotB = s.slotB) (hm : u.mem = s.mem)
      (hd : u.draw = s.draw) : s.SameStorage u := sameStorage_of_frame hA hB hm hd
  obtain ⟨r, -, -, rfl⟩ | ⟨hag, hm⟩ | ⟨rest, h⟩ := step_next_cases h
  · exact .inl (hkeep rfl rfl rfl rfl)
  · by_cases hz : s.stage = .commit ∧ s.cmd = some .zeroize
    · exact .inr (.inr (.inr (.inl ⟨hz.1, hz.2, .inl hag⟩)))
    · exact .inl (sequencerMove_sameStorage hm hz)
  · have hagenda : s.SameStorage (s.setAgenda rest) := hkeep rfl rfl rfl rfl
    obtain ⟨hag, hm⟩ | ⟨-, rfl⟩ | ⟨-, rfl⟩ | ⟨hag, -⟩ | ⟨v, hag, hr⟩ | ⟨a, w, -, hr⟩ | ⟨a, w, v, hag, hw⟩ := h
    · by_cases hz : s.stage = .commit ∧ s.cmd = some .zeroize
      · exact .inr (.inr (.inr (.inl ⟨hz.1, hz.2, .inr ⟨rest, hag⟩⟩)))
      · exact .inl (hagenda.trans (sequencerMove_sameStorage hm hz))
    · rcases engineMove_cases (s.setAgenda rest) with ⟨r, -, e⟩ | ⟨-, e⟩ <;> rw [e]
      · exact .inl (hkeep rfl rfl rfl rfl)
      · exact .inl hagenda
    · exact .inl (hkeep rfl rfl rfl rfl)
    · exact .inr (.inl ⟨rest, hag⟩)
    · by_cases hz : s.busy = false ∧ decodeWord v = .zeroize
      · exact .inr (.inr (.inl ⟨v, rest, hag, hz⟩))
      · exact .inl (hagenda.trans (runCommand_sameStorage hr hz))
    · obtain ⟨off, r, -, rfl⟩ := busRead_cases hr
      exact .inl (hkeep rfl rfl rfl rfl)
    · obtain ⟨off, hoff, ⟨-, rfl⟩ | ⟨rfl, h4, e⟩⟩ := busWrite_cases hw
      · exact .inl (hkeep rfl rfl rfl rfl)
      · exact .inr (.inr (.inr (.inr ⟨a, v, rest, off, hag, hoff, h4, e⟩)))

/-- Settles O47: of the steps that touch the storage, a write changes a slot only at KEYCTL or a key word. -/
theorem keySlotsChangeOnlyByTheirRules : Obligations.KeySlotsChangeOnlyByTheirRules := by
  intro s s' h hchanged
  obtain hsame | hreset | hrun | hcommit | ⟨addr, v, rest, off, hag, hoff, -, rfl⟩ := step_storage_cases h
  · exact absurd hchanged (not_or.2 ⟨not_not.2 hsame.slotA, not_not.2 hsame.slotB⟩)
  · exact .inl hreset
  · exact .inr (.inl hrun)
  · exact .inr (.inr (.inl hcommit))
  · obtain ⟨hb, hrange⟩ := writeRegister_slots_cases (s := s.setAgenda rest) hchanged
    exact .inr (.inr (.inr ⟨addr, v, rest, off, hag, hb, hoff, hrange⟩))

/-- Settles O48: of the steps that touch the storage, a write changes a byte of IN_BUF only at its own word. -/
theorem inBufChangesOnlyByItsRules : Obligations.InBufChangesOnlyByItsRules := by
  intro s s' i hp hi h hchanged
  obtain ⟨-, -, hsize, -⟩ := hp
  have hi' : i < 0x400 := by omega
  obtain hsame | hreset | hrun | hcommit | ⟨addr, v, rest, off, hag, hoff, h4, rfl⟩ := step_storage_cases h
  · exact absurd (hsame.inByte i hi') hchanged
  · exact .inl hreset
  · exact .inr (.inl hrun)
  · exact .inr (.inr (.inl hcommit))
  · obtain ⟨hb, rfl⟩ := writeRegister_inByte_cases (s := s.setAgenda rest) h4 hi' hchanged
    obtain ⟨rfl, -⟩ := windowOffset_some hoff
    exact .inr (.inr (.inr ⟨v, rest, hb, by rw [Nat.add_assoc]; exact hag⟩))

end Sys2Proof.Machine
end

section
/-! What a host access leaves alone: illegal accesses and reads change nothing but the response (R74, R76), and no
event but reset changes the inputs of a command while it runs (R84, R300). -/

namespace Sys2Proof.Machine

/-! ## Accesses -/

/-- R74: the accesses that are not legal. -/
theorem not_legalAccess {off width : Nat} (h : width ≠ 4 ∨ off % 4 ≠ 0) : ¬ legalAccess off width = true := by
  rw [legalAccess_iff]
  omega

/-- Settles O33: the offset is in the window, and the access is not legal. -/
theorem illegalAccessesChangeNothing : Obligations.IllegalAccessesChangeNothing := by
  intro s off width hoff hillegal
  have hwindow := windowOffset_add (p := s.params) hoff
  have hnot := not_legalAccess hillegal
  exact ⟨by rw [busRead_of_offset hwindow, if_neg hnot], fun v => by rw [busWrite_of_offset v hwindow, if_neg hnot]⟩

/-- Settles O35: the step is the read, and a read of the window only responds. -/
theorem readsHaveNoSideEffects : Obligations.ReadsHaveNoSideEffects := by
  intro s addr width rest hag hwindow
  obtain ⟨off, hoff⟩ := Option.ne_none_iff_exists'.1 hwindow
  exact ⟨_, (step_of_agenda_cons hag).trans (busRead_of_offset (s := s.setAgenda rest) hoff)⟩

/-! ## The inputs of a running command -/

/-- The completion makes the block idle (R220). -/
theorem stageCommit_busy (s : State) : (stageCommit s).busy = false := by
  unfold stageCommit
  split <;> rfl

/-- A move that leaves the command running is not its completion, so it leaves the inputs alone (R84, R156). -/
theorem sequencerMove_inputs {s s' : State} (h : sequencerMove s = .next s') (hb : s'.busy = true) :
    s'.inputs = s.inputs := by
  by_cases hc : s.stage = .commit
  · rw [sequencerMove_commit hc, Host.Outcome.next.injEq] at h
    subst h
    exact absurd ((stageCommit_busy s).symm.trans hb) Bool.false_ne_true
  · rw [sequencerMove_frame h hc]
    rfl

theorem engineMove_inputs (s : State) : (engineMove s).inputs = s.inputs := by
  obtain ⟨r, -, e⟩ | ⟨-, e⟩ := engineMove_cases s <;> rw [e]
  exact s.deliver_inputs _

/-- While BUSY a write reaches STATUS at most (R300). -/
theorem writeRegister_inputs {s : State} (t : Target) (v : Word) (hb : s.busy = true) :
    (s.writeRegister t v).inputs = s.inputs := by
  obtain ⟨-, e⟩ | ⟨-, e⟩ | ⟨-, e⟩ | ⟨hidle, -⟩ := writeRegister_cases s t v
  · rw [e]
  · rw [e, State.setOverrun_inputs]
  · rw [e]
    rfl
  · exact absurd (hidle.symm.trans hb) Bool.false_ne_true

theorem busWrite_inputs {s s' : State} {addr width : Nat} {v : Word} (hb : s.busy = true)
    (h : busWrite addr width v s = .next s') : s'.inputs = s.inputs := by
  obtain ⟨off, -, ⟨-, rfl⟩ | ⟨-, -, rfl⟩⟩ := busWrite_cases h
  · exact s.respond_inputs _
  · exact (State.respond_inputs _ _).trans (writeRegister_inputs _ v hb)

/-- Settles O49, event by event: the completion leaves the block idle, and every other move of a busy block and every
other event but reset keeps its inputs. -/
theorem inputsAreFrozenWhileBusy : Obligations.InputsAreFrozenWhileBusy := by
  intro s s' hb hreset h hb'
  obtain ⟨r, -, -, rfl⟩ | ⟨-, hm⟩ | ⟨rest, h⟩ := step_next_cases h
  · exact s.deliver_inputs _
  · exact sequencerMove_inputs hm hb'
  · have hagenda : (s.setAgenda rest).inputs = s.inputs := s.setAgenda_inputs rest
    rw [← hagenda]
    obtain ⟨-, hm⟩ | ⟨-, rfl⟩ | ⟨-, rfl⟩ | ⟨hag, -⟩ | ⟨v, -, hr⟩ | ⟨a, w, -, hr⟩ | ⟨a, w, v, -, hw⟩ := h
    · exact sequencerMove_inputs hm hb'
    · exact engineMove_inputs _
    · rfl
    · exact absurd hag (hreset rest)
    · rw [runCommand_of_busy (s := s.setAgenda rest) _ hb, Host.Outcome.next.injEq] at hr
      exact hr ▸ rfl
    · obtain ⟨off, r, -, rfl⟩ := busRead_cases hr
      exact State.respond_inputs _ r
    · exact busWrite_inputs hb hw

end Sys2Proof.Machine
end

section
/-! Where a step goes on (R71, R260, R271): a consistent sequencer always has a move, so only a host access outside the
window stops the machine. -/

namespace Sys2Proof.Machine

/-! ## Stages -/

theorem stageCheck_next {s : State} (hcmd : s.cmd ≠ none) : ∃ t, stageCheck s = .next t := by
  unfold stageCheck
  split
  · exact absurd ‹_› hcmd
  · exact ⟨_, rfl⟩
  · split <;> exact ⟨_, rfl⟩

theorem stageKeylen_next {s : State} (hprof : s.scratch.profile ≠ none) : ∃ t, stageKeylen s = .next t := by
  unfold stageKeylen
  split
  · exact absurd ‹_› hprof
  · exact ⟨_, rfl⟩
  · exact ⟨_, rfl⟩

theorem beginAgreement_next {s : State} (hprof : s.scratch.profile ≠ none)
    (hform : s.scratch.profile = some .b → s.scratch.form ≠ none) : ∃ t, beginAgreement s = .next t := by
  unfold beginAgreement
  split
  · exact ⟨_, rfl⟩
  · exact ⟨_, rfl⟩
  · next hb hnone => exact absurd hnone (hform hb)
  · exact absurd ‹_› hprof

theorem stageKeyagree_next {s : State} (hprof : s.scratch.profile ≠ none)
    (hform : s.scratch.profile = some .b → s.scratch.form ≠ none) : ∃ t, stageKeyagree s = .next t := by
  unfold stageKeyagree
  split
  · exact beginAgreement_next hprof hform
  · exact ⟨_, rfl⟩
  · exact ⟨_, rfl⟩

/-- Only KEYAGREE can see an engine fail (R15 to R19). -/
theorem port_ne_fail_of_portFits {st : Stage} {p : Port} (h : portFits st p) (hst : st ≠ .keyagree) :
    p ≠ .answered .fail := by
  rintro rfl
  obtain ⟨-, hfail⟩ := h
  exact hst (hfail rfl)

/-- What the port of a stage holds whose engine does not fail. -/
theorem port_cases_of_ne_fail {p : Port} (h : p ≠ .answered .fail) :
    p = .idle ∨ (∃ r, p = .requested r) ∨ ∃ z, p = .answered (.ok z) := by
  cases p with
  | idle => exact .inl rfl
  | requested r => exact .inr (.inl ⟨r, rfl⟩)
  | answered a =>
    cases a with
    | ok z => exact .inr (.inr ⟨z, rfl⟩)
    | fail => exact absurd rfl h

theorem stageKdf_next {s : State} (hp : s.port ≠ .answered .fail) : ∃ t, stageKdf s = .next t := by
  obtain e | ⟨r, e⟩ | ⟨z, e⟩ := port_cases_of_ne_fail hp <;> simp only [stageKdf, e]
  · exact ⟨_, rfl⟩
  · exact ⟨_, rfl⟩
  · exact ⟨_, rfl⟩

theorem stageMac_next {s : State} (hp : s.port ≠ .answered .fail) : ∃ t, stageMac s = .next t := by
  obtain e | ⟨r, e⟩ | ⟨tag, e⟩ := port_cases_of_ne_fail hp <;> simp only [stageMac, e]
  · exact ⟨_, rfl⟩
  · exact ⟨_, rfl⟩
  · rw [takeTag_ok]
    split <;> exact ⟨_, rfl⟩

theorem stageDecrypt_next {s : State} (hp : s.port ≠ .answered .fail) : ∃ t, stageDecrypt s = .next t := by
  obtain e | ⟨r, e⟩ | ⟨z, e⟩ := port_cases_of_ne_fail hp <;> simp only [stageDecrypt, e]
  · exact ⟨_, rfl⟩
  · exact ⟨_, rfl⟩
  · exact ⟨_, rfl⟩

/-- CHECK sends only the four auxiliary commands to AUX (R150). -/
theorem stageAux_next {s : State} (hadm : Stage.admits .aux s.cmd) : ∃ t, stageAux s = .next t := by
  obtain e | e | e | e := hadm <;> simp only [stageAux, e] <;> exact ⟨_, rfl⟩

/-! ## Moves -/

/-- A consistent sequencer has a move in every stage (R151). -/
theorem sequencerMove_next {s : State} (hs : s.SequencerInv) : ∃ t, sequencerMove s = .next t := by
  obtain ⟨hadm, hport, hprof, hform, -⟩ := hs
  cases hst : s.stage <;> simp only [sequencerMove, hst] <;> rw [hst] at hadm hport hprof hform
  case check => exact stageCheck_next hadm
  case keylen => exact stageKeylen_next (hprof rfl)
  case keyagree => exact stageKeyagree_next (hprof rfl) (hform (.inr rfl))
  case kdf => exact stageKdf_next (port_ne_fail_of_portFits hport (by decide))
  case mac => exact stageMac_next (port_ne_fail_of_portFits hport (by decide))
  case decrypt => exact stageDecrypt_next (port_ne_fail_of_portFits hport (by decide))
  case aux => exact stageAux_next hadm
  case idle | parse | dispatch | hexdec | split | decode | assemble | commit => exact ⟨_, rfl⟩

/-- An answer is an event of the agenda too, and every step keeps the sequencer consistent. -/
theorem engineMove_sequencerInv {s : State} (hs : s.SequencerInv) : (engineMove s).SequencerInv :=
  sequencerInvariantIsKept (s.setAgenda (.engineMove :: s.agenda)) _ hs rfl

/-- An own move of a consistent sequencer goes on, to a consistent sequencer. -/
theorem ownMove_next {s : State} (hs : s.SequencerInv) : ∃ t, ownMove s = .next t ∧ t.SequencerInv := by
  unfold ownMove
  split
  · exact ⟨_, rfl, engineMove_sequencerInv hs⟩
  all_goals
    obtain ⟨t, e⟩ := sequencerMove_next hs
    exact ⟨t, e, sequencerMove_sequencerInv hs e⟩

theorem settle_next (n : Nat) {s : State} (hs : s.SequencerInv) : ∃ t, settle n s = .next t := by
  induction n generalizing s with
  | zero => exact ⟨s, settle_zero s⟩
  | succ n ih =>
    obtain ⟨t, e, ht⟩ := ownMove_next hs
    rw [settle_succ n e]
    exact ih ht

/-- A `run` goes on from every state, since the accept makes the sequencer consistent. -/
theorem runCommand_next (i : Instr) (s : State) : ∃ t, runCommand i s = .next t := by
  cases hb : s.busy with
  | true => exact ⟨_, runCommand_of_busy i hb⟩
  | false =>
    rw [runCommand_of_idle i hb]
    exact settle_next commandMoves (accept_sequencerInv s i)

/-! ## Steps -/

/-- The event is a host access outside the window (R71). -/
def Event.Outside (p : Params) (e : Event) : Prop :=
  ∃ addr width, windowOffset p addr = none ∧ (e = .read addr width ∨ ∃ v, e = .write addr width v)

/-- An event goes on, or it is an access outside the window and faults. -/
theorem happen_next_or_fault (e : Event) {s : State} (hs : s.SequencerInv) :
    (∃ t, happen e s = .next t) ∨ (e.Outside s.params ∧ happen e s = .fault .outsideWindow) := by
  cases e with
  | read addr width =>
    cases hoff : windowOffset s.params addr with
    | none => exact .inr ⟨⟨addr, width, hoff, .inl rfl⟩, by simp only [happen, busRead, hoff]⟩
    | some off => exact .inl ⟨_, busRead_of_offset hoff⟩
  | write addr width v =>
    cases hoff : windowOffset s.params addr with
    | none => exact .inr ⟨⟨addr, width, hoff, .inr ⟨v, rfl⟩⟩, by simp only [happen, busWrite, hoff]⟩
    | some off => exact .inl ⟨_, busWrite_of_offset v hoff⟩
  | run v =>
    obtain ⟨t, ht⟩ := runCommand_next (decodeWord v) s
    exact .inl ⟨t, (exec_eq_runCommand (decodeWord v) s).trans ht⟩
  | sequencerMove => exact .inl (sequencerMove_next hs)
  | engineMove => exact .inl ⟨_, rfl⟩
  | lateAnswer => exact .inl ⟨_, rfl⟩
  | reset => exact .inl ⟨_, rfl⟩

theorem step_next_or_fault {s : State} (hs : s.SequencerInv) :
    (∃ t, step s = .next t) ∨
      ∃ e rest, s.agenda = e :: rest ∧ e.Outside s.params ∧ step s = .fault .outsideWindow := by
  obtain ⟨-, e⟩ | ⟨ev, rest, hag, e⟩ := step_cases s <;> rw [e]
  · obtain ⟨t, ht, -⟩ := ownMove_next hs
    exact .inl ⟨t, ht⟩
  · obtain hnext | ⟨hout, hfault⟩ := happen_next_or_fault ev (s := s.setAgenda rest) hs
    · exact .inl hnext
    · exact .inr ⟨ev, rest, hag, hout, hfault⟩

/-- Settles O46: a step that does not go on is an access outside the window. -/
theorem onlyOutsideAccessesFault : Obligations.OnlyOutsideAccessesFault := by
  intro s hs
  obtain ⟨t, e⟩ | ⟨ev, rest, hag, ⟨addr, width, hoff, haccess⟩, e⟩ := step_next_or_fault hs <;> rw [e]
  · exact ⟨nofun, nofun⟩
  · refine ⟨nofun, fun f hf => ⟨(Host.Outcome.fault.inj hf).symm, rest, addr, width, hoff, ?_⟩⟩
    obtain rfl | ⟨v, rfl⟩ := haccess
    · exact .inl hag
    · exact .inr ⟨v, hag⟩

end Sys2Proof.Machine
end

section
/-! Command words (R100 to R102): the words and the well-formed commands are in bijection, a word being known by its
OPCODE and RSVD fields; the bytes and table bits of a word decode to the command of the word. -/

namespace Sys2Proof.Machine

/-! ## The two fields of a word -/

/-- R100: RSVD above OPCODE is the whole word. -/
theorem rsvdField_append_opcodeField (v : Word) : rsvdField v ++ opcodeField v = v := by
  unfold rsvdField opcodeField
  rw [BitVec.extractLsb'_append_extractLsb'_eq_extractLsb' (by rfl)]
  exact BitVec.extractLsb'_eq_self

theorem word_ext_fields {v w : Word} (hop : opcodeField v = opcodeField w) (hrsvd : rsvdField v = rsvdField w) :
    v = w := by
  rw [← rsvdField_append_opcodeField v, hop, hrsvd, rsvdField_append_opcodeField]

theorem fields_encodeWord_illegal (opcode : BitVec 8) (rsvd : BitVec 24) :
    opcodeField (encodeWord (.illegal opcode rsvd)) = opcode ∧
      rsvdField (encodeWord (.illegal opcode rsvd)) = rsvd :=
  Prod.mk.inj (Laws.EncodingFields.illegal opcode rsvd)

/-! ## Which fields are ILLEGAL -/

theorem legalOpcode_iff (opcode : BitVec 8) :
    legalOpcode opcode = true ↔ opcode = 1 ∨ opcode = 2 ∨ opcode = 3 ∨ opcode = 4 ∨ opcode = 5 := by
  simp only [legalOpcode, Bool.or_eq_true, beq_iff_eq, or_assoc]

theorem wellFormed_illegal_iff (opcode : BitVec 8) (rsvd : BitVec 24) :
    (Instr.illegal opcode rsvd).WellFormed ↔ rsvd ≠ 0 ∨ ¬ legalOpcode opcode = true := by
  simp only [Instr.WellFormed, Instr.wellFormed, Bool.or_eq_true, bne_iff_ne, Bool.not_eq_true',
    Bool.not_eq_true]

/-- R102: the opcodes outside the map. -/
theorem not_legalOpcode {opcode : BitVec 8} (h : opcode = 0 ∨ 5 < opcode.toNat) : ¬ legalOpcode opcode = true := by
  rw [legalOpcode_iff]
  rintro (rfl | rfl | rfl | rfl | rfl) <;> exact absurd h (by decide)

/-! ## Words and commands -/

theorem decodeWord_of_illegal {v : Word} (h : (Instr.illegal (opcodeField v) (rsvdField v)).WellFormed) :
    decodeWord v = .illegal (opcodeField v) (rsvdField v) := by
  unfold decodeWord
  obtain hrsvd | hop := (wellFormed_illegal_iff _ _).mp h
  · exact if_pos hrsvd
  · simp only [legalOpcode_iff, not_or] at hop
    obtain ⟨h1, h2, h3, h4, h5⟩ := hop
    rw [if_neg h1, if_neg h2, if_neg h3, if_neg h4, if_neg h5, ite_self]

theorem decodeWord_encodeWord {i : Instr} (hi : i.WellFormed) : decodeWord (encodeWord i) = i := by
  cases i with
  | illegal opcode rsvd =>
    obtain ⟨hop, hrsvd⟩ := fields_encodeWord_illegal opcode rsvd
    rw [decodeWord_of_illegal (by rwa [hop, hrsvd]), hop, hrsvd]
  | deconceal | p256Decompress | p256Compress | tbcdDecode | zeroize => rfl

/-- R101: a word with the fields of a well-formed command stands for that command. -/
theorem decodeWord_of_fields {v : Word} {i : Instr} (hi : i.WellFormed)
    (hop : opcodeField v = opcodeField (encodeWord i)) (hrsvd : rsvdField v = rsvdField (encodeWord i)) :
    decodeWord v = i := by
  rw [word_ext_fields hop hrsvd, decodeWord_encodeWord hi]

/-- Every word is the word of a well-formed command. -/
theorem exists_encodeWord_eq (v : Word) : ∃ i : Instr, i.WellFormed ∧ encodeWord i = v := by
  by_cases hill : (Instr.illegal (opcodeField v) (rsvdField v)).WellFormed
  · exact ⟨_, hill, rsvdField_append_opcodeField v⟩
  · rw [wellFormed_illegal_iff, not_or, not_not, not_not, legalOpcode_iff] at hill
    obtain ⟨hrsvd, hop | hop | hop | hop | hop⟩ := hill
    · exact ⟨.deconceal, rfl, word_ext_fields hop.symm hrsvd.symm⟩
    · exact ⟨.p256Decompress, rfl, word_ext_fields hop.symm hrsvd.symm⟩
    · exact ⟨.p256Compress, rfl, word_ext_fields hop.symm hrsvd.symm⟩
    · exact ⟨.tbcdDecode, rfl, word_ext_fields hop.symm hrsvd.symm⟩
    · exact ⟨.zeroize, rfl, word_ext_fields hop.symm hrsvd.symm⟩

/-! ## Bytes and table bits -/

theorem decode_lanesOf_append (v : Word) (rest : Bytes) : decode (lanesOf v ++ rest) = .ok (decodeWord v, rest) :=
  congrArg (fun w => Except.ok (decodeWord w, rest)) (wordOfLanes_byteLane v)

theorem decodeTableWord_eq_some (nbits w : Nat) :
    decodeTableWord nbits w = some (decodeWord (tableWord nbits w)) := by
  have hdecode := decode_lanesOf_append (tableWord nbits w) []
  rw [List.append_nil] at hdecode
  unfold decodeTableWord
  rw [hdecode]

theorem tableWord_toNat (v : Word) : tableWord 32 v.toNat = v := by
  rw [tableWord, Nat.mod_eq_of_lt v.isLt, BitVec.ofNat_toNat, BitVec.setWidth_eq]

/-! ## The statements -/

/-- Settles O1: the word's lanes and its table bits hold the word again. -/
theorem decodeOfEncodeIsIdentity : Obligations.DecodeOfEncodeIsIdentity := by
  intro i hi
  have hword := decodeWord_encodeWord hi
  refine ⟨hword, fun rest => ?_, ?_⟩
  · rw [encodeBytes, decode_lanesOf_append, hword]
  · rw [decodeTableWord_eq_some, tableWord_toNat, hword]

/-- Settles O2: the word is a well-formed command's, and that command is the one it decodes to. -/
theorem encodeOfDecodeIsIdentity : Obligations.EncodeOfDecodeIsIdentity := by
  intro v
  obtain ⟨i, hi, rfl⟩ := exists_encodeWord_eq v
  rw [decodeWord_encodeWord hi]
  exact ⟨hi, rfl⟩

/-- Settles O3: the fields are a command's, or they are ILLEGAL's own. -/
theorem decodingFollowsTheFields : Obligations.DecodingFollowsTheFields := by
  intro v
  refine ⟨fun hrsvd => decodeWord_of_illegal ((wellFormed_illegal_iff _ _).mpr (.inl hrsvd)), fun hrsvd => ?_⟩
  refine ⟨fun hop => decodeWord_of_fields (i := .deconceal) rfl hop hrsvd,
    fun hop => decodeWord_of_fields (i := .p256Decompress) rfl hop hrsvd,
    fun hop => decodeWord_of_fields (i := .p256Compress) rfl hop hrsvd,
    fun hop => decodeWord_of_fields (i := .tbcdDecode) rfl hop hrsvd,
    fun hop => decodeWord_of_fields (i := .zeroize) rfl hop hrsvd, fun hop => ?_⟩
  calc decodeWord v = .illegal (opcodeField v) (rsvdField v) :=
        decodeWord_of_illegal ((wellFormed_illegal_iff _ _).mpr (.inr (not_legalOpcode hop)))
    _ = .illegal (opcodeField v) 0 := congrArg _ hrsvd

/-- Settles O4: each word is that of its well-formed command. -/
theorem tableWordsDecode : Obligations.TableWordsDecode :=
  ⟨decodeWord_encodeWord (i := .deconceal) rfl, decodeWord_encodeWord (i := .p256Decompress) rfl,
    decodeWord_encodeWord (i := .p256Compress) rfl, decodeWord_encodeWord (i := .tbcdDecode) rfl,
    decodeWord_encodeWord (i := .zeroize) rfl, decodeWord_encodeWord (i := .illegal 0x00 0x000000) rfl,
    decodeWord_encodeWord (i := .illegal 0x06 0x000000) rfl, decodeWord_encodeWord (i := .illegal 0x01 0x000001) rfl⟩

/-- Settles O5: the event at the head of the agenda happens, and taking off the table's `run` gives the state back. -/
theorem runStepExecutesDecodedCommand : Obligations.RunStepExecutesDecodedCommand := by
  refine ⟨fun s v rest hag => step_of_agenda_cons hag, fun s nbits w => ?_⟩
  have hag : (s.withFetchWord nbits w).agenda = .run (tableWord nbits w) :: s.agenda := State.setAgenda_agenda s _
  have hback : (s.withFetchWord nbits w).setAgenda s.agenda = s := rfl
  rw [step_of_agenda_cons hag, hback]
  rfl

end Sys2Proof.Machine
end

section
/-! Splitting at hyphens loses nothing (R130): the loop, with the field being read as its generalisation. -/

namespace Sys2Proof.Machine

/-- At a hyphen the field being read ends, and another one begins. -/
theorem splitFrom_cons_hyphen (cur rest : Bytes) : splitFrom cur (0x2D :: rest) = cur :: splitFrom [] rest :=
  if_pos rfl

/-- Every other byte joins the field being read. -/
theorem splitFrom_cons_of_ne {b : Byte} (hb : b ≠ 0x2D) (cur rest : Bytes) :
    splitFrom cur (b :: rest) = splitFrom (cur ++ [b]) rest :=
  if_neg hb

theorem splitFrom_count (cur b : Bytes) : (splitFrom cur b).length = b.count 0x2D + 1 := by
  induction b generalizing cur with
  | nil => rfl
  | cons x rest ih =>
    by_cases hx : x = 0x2D
    · subst hx
      rw [splitFrom_cons_hyphen, List.length_cons, ih, List.count_cons_self]
    · rw [splitFrom_cons_of_ne hx, ih, List.count_cons_of_ne hx]

/-- There is always a last field, even if it is empty. -/
theorem splitFrom_ne_nil (cur b : Bytes) : splitFrom cur b ≠ [] :=
  List.ne_nil_of_length_pos (by rw [splitFrom_count]; exact Nat.succ_pos _)

theorem hyphen_notMem_of_mem_splitFrom {cur b f : Bytes} (hcur : (0x2D : Byte) ∉ cur) (hf : f ∈ splitFrom cur b) :
    (0x2D : Byte) ∉ f := by
  induction b generalizing cur with
  | nil => exact List.mem_singleton.1 hf ▸ hcur
  | cons x rest ih =>
    by_cases hx : x = 0x2D
    · subst hx
      rw [splitFrom_cons_hyphen, List.mem_cons] at hf
      obtain rfl | hf := hf
      · exact hcur
      · exact ih List.not_mem_nil hf
    · rw [splitFrom_cons_of_ne hx] at hf
      have hjoined : (0x2D : Byte) ∉ cur ++ [x] := fun h =>
        (List.mem_append.1 h).elim hcur fun hlast => hx (List.mem_singleton.1 hlast).symm
      exact ih hjoined hf

/-- Joined by hyphens, the fields are what has been read of the current one and the bytes still to come. -/
theorem intercalate_splitFrom (cur b : Bytes) : List.intercalate [0x2D] (splitFrom cur b) = cur ++ b := by
  induction b generalizing cur with
  | nil => rw [List.append_nil]; exact List.intercalate_singleton
  | cons x rest ih =>
    by_cases hx : x = 0x2D
    · subst hx
      obtain ⟨f, fs, hfs⟩ := List.exists_cons_of_ne_nil (splitFrom_ne_nil [] rest)
      rw [splitFrom_cons_hyphen, hfs, List.intercalate_cons_cons, ← hfs, ih]
      simp
    · rw [splitFrom_cons_of_ne hx, ih]
      simp

/-- Settles O55, by induction on the bytes still to be read. -/
theorem fieldSplitIsExact : Obligations.FieldSplitIsExact := fun b =>
  ⟨splitFrom_count [] b, fun _ => hyphen_notMem_of_mem_splitFrom List.not_mem_nil, intercalate_splitFrom [] b⟩

end Sys2Proof.Machine
end

section
/-! How far a command is from its completion: the moves that the stages of R151 leave, of which every move takes at
least one, so that a `run` ends in IDLE (log 21). -/

namespace Sys2Proof.Machine

/-! ## The moves left -/

/-- The moves from here to the use of an engine's answer: the request, the answer, the use (R14). -/
def Port.movesLeft : Port → Nat
  | .idle => 3
  | .requested _ => 2
  | .answered _ => 1

/-- The moves of the KDF up to the key split: three for each round that has not been requested (R190, R191). -/
def kdfMovesLeft (kdfRound : Nat) : Port → Nat
  | .idle => 3 * (2 - kdfRound)
  | .requested _ => 2 + 3 * (1 - kdfRound)
  | .answered _ => 1 + 3 * (1 - kdfRound)

/-- The most moves that a sequencer in this stage can make before it is idle, a count of the model's moves (R151,
log 21). -/
def Stage.movesLeft (p : Port) (kdfRound : Nat) : Stage → Nat
  | .idle => 0
  | .commit => 1
  | .aux => 2
  | .assemble => 2
  | .decode => 3
  | .decrypt => 3 + p.movesLeft
  | .mac => 6 + p.movesLeft
  | .kdf => 10 + kdfMovesLeft kdfRound p
  | .keyagree => 16 + p.movesLeft
  | .split => 20
  | .keylen => 21
  | .hexdec => 22
  | .dispatch => 23
  | .parse => 24
  | .check => 25

/-- The moves left to a sequencer, by its stage, its port and the KDF rounds done. -/
def State.movesLeft (s : State) : Nat := s.stage.movesLeft s.port s.scratch.kdfRound

theorem movesLeft_of_stage {s : State} {st : Stage} (h : s.stage = st) :
    s.movesLeft = st.movesLeft s.port s.scratch.kdfRound := by
  rw [State.movesLeft, h]

@[simp] theorem gotoStage_movesLeft (s : State) (st : Stage) :
    (s.gotoStage st).movesLeft = st.movesLeft s.port s.scratch.kdfRound := rfl

@[simp] theorem raiseFail_movesLeft (s : State) (e : ResultCode) : (s.raiseFail e).movesLeft = 1 := rfl

@[simp] theorem emit_movesLeft (s : State) (out : Bytes) : (s.emit out).movesLeft = 1 := rfl

@[simp] theorem emitChecked_movesLeft (s : State) (out : Bytes) : (s.emitChecked out).movesLeft = 1 := by
  obtain ⟨-, e⟩ | ⟨-, e⟩ := emitChecked_cases s out <;> rw [e] <;> rfl

theorem Port.movesLeft_le (p : Port) : p.movesLeft ≤ 3 := by
  cases p <;> simp [Port.movesLeft]

theorem eq_idle_of_movesLeft_eq_zero {s : State} (h : s.movesLeft = 0) : s.stage = .idle := by
  cases hst : s.stage
  case idle => rfl
  all_goals simp [movesLeft_of_stage hst, Stage.movesLeft] at h

/-! ## Every move takes one -/

theorem stageCheck_movesLeft {s s' : State} (h : stageCheck s = .next s') : s'.movesLeft < 25 := by
  obtain ⟨o, r, -, rfl⟩ | ⟨i, -, -, -, rfl⟩ | ⟨i, -, -, -, rfl⟩ := stageCheck_cases h
  · simp
  · simp
  · cases i <;> simp [stageAfterCheck, Stage.movesLeft]

theorem stageParse_movesLeft (s : State) : (stageParse s).movesLeft < 24 := by
  obtain ⟨-, -, e⟩ | ⟨-, -, e⟩ | ⟨-, -, e⟩ | ⟨-, -, e⟩ | e := stageParse_cases s <;> rw [e] <;>
    simp [passthrough, Stage.movesLeft]

theorem stageDispatch_movesLeft (s : State) : (stageDispatch s).movesLeft < 23 := by
  obtain ⟨-, e⟩ | e | e | e | ⟨-, e⟩ := stageDispatch_cases s <;> rw [e] <;>
    simp [passthrough, nullScheme, chooseProfile, Stage.movesLeft]

theorem stageHexdec_movesLeft (s : State) : (stageHexdec s).movesLeft < 22 := by
  obtain ⟨-, e⟩ | ⟨d, -, e⟩ := stageHexdec_cases s <;> rw [e] <;> simp [Stage.movesLeft]

theorem stageKeylen_movesLeft {s s' : State} (h : stageKeylen s = .next s') : s'.movesLeft < 21 := by
  obtain ⟨e, -, rfl⟩ | ⟨n, form, -, -, rfl⟩ := stageKeylen_cases h <;> simp [Stage.movesLeft]

/-- SPLIT hands on to the three moves of KEYAGREE. -/
theorem stageSplit_movesLeft (s : State) : (stageSplit s).movesLeft < 20 := by
  have hport := s.port.movesLeft_le
  simp only [stageSplit, gotoStage_movesLeft, Stage.movesLeft, State.setScratch_port]
  omega

/-- KEYAGREE makes its request, fails, or hands on to the KDF, which has two rounds at most. -/
theorem stageKeyagree_movesLeft {s s' : State} (hst : s.stage = .keyagree) (hp : ∀ r, s.port ≠ .requested r)
    (h : stageKeyagree s = .next s') : s'.movesLeft < s.movesLeft := by
  rw [movesLeft_of_stage hst]
  obtain ⟨e, hb⟩ | ⟨r, e, -⟩ | ⟨e, rfl⟩ | ⟨z, e, rfl⟩ := stageKeyagree_cases h
  · obtain ⟨c, -, rfl⟩ | ⟨-, -, rfl⟩ | ⟨form, pt, -, -, -, -, rfl⟩ := beginAgreement_cases hb <;>
      simp [State.movesLeft, hst, e, Stage.movesLeft, Port.movesLeft]
  · exact absurd e (hp r)
  · simp [e, Stage.movesLeft, Port.movesLeft]
  · simp only [gotoStage_movesLeft, State.release_port, Stage.movesLeft, Port.movesLeft, kdfMovesLeft, e]
    omega

/-- The KDF requests a round, takes its digest, or splits the keys once two rounds are done. -/
theorem stageKdf_movesLeft {s s' : State} (hst : s.stage = .kdf) (hp : ∀ r, s.port ≠ .requested r)
    (h : stageKdf s = .next s') : s'.movesLeft < s.movesLeft := by
  rw [movesLeft_of_stage hst]
  obtain ⟨e, hk, rfl⟩ | ⟨e, -, rfl⟩ | ⟨r, e, -⟩ | ⟨z, e, rfl⟩ := stageKdf_cases h
  · simp only [State.movesLeft, hst, e, State.issue_stage, State.issue_port, State.issue_scratch, Stage.movesLeft,
      kdfMovesLeft]
    omega
  · simp only [gotoStage_movesLeft, State.setScratch_port, e, Stage.movesLeft, Port.movesLeft]
    omega
  · exact absurd e (hp r)
  · simp only [State.movesLeft, hst, e, State.release_stage, State.release_port, State.release_scratch,
      State.setScratch_stage, State.setScratch_scratch, Stage.movesLeft, kdfMovesLeft]
    omega

theorem stageMac_movesLeft {s s' : State} (hst : s.stage = .mac) (hp : ∀ r, s.port ≠ .requested r)
    (h : stageMac s = .next s') : s'.movesLeft < s.movesLeft := by
  rw [movesLeft_of_stage hst]
  obtain ⟨e, rfl⟩ | ⟨r, e, -⟩ | ⟨tag, e, -, rfl⟩ | ⟨tag, e, -, rfl⟩ := stageMac_cases h
  · simp [State.movesLeft, hst, e, Stage.movesLeft, Port.movesLeft]
  · exact absurd e (hp r)
  · simp [e, Stage.movesLeft, Port.movesLeft]
  · simp [e, Stage.movesLeft, Port.movesLeft]

theorem stageDecrypt_movesLeft {s s' : State} (hst : s.stage = .decrypt) (hp : ∀ r, s.port ≠ .requested r)
    (h : stageDecrypt s = .next s') : s'.movesLeft < s.movesLeft := by
  rw [movesLeft_of_stage hst]
  obtain ⟨e, rfl⟩ | ⟨r, e, -⟩ | ⟨z, e, rfl⟩ := stageDecrypt_cases h
  · simp [State.movesLeft, hst, e, Stage.movesLeft, Port.movesLeft]
  · exact absurd e (hp r)
  · simp [e, Stage.movesLeft, Port.movesLeft]

theorem stageCommit_movesLeft (s : State) : (stageCommit s).movesLeft = 0 := by
  unfold stageCommit
  split <;> rfl

theorem stageAux_movesLeft {s s' : State} (h : stageAux s = .next s') : s'.movesLeft < 2 := by
  obtain ⟨e, -, rfl⟩ | ⟨-, rfl⟩ | ⟨out, -, rfl⟩ := stageAux_cases h <;> simp

/-- A busy sequencer that does not wait for an engine comes nearer to IDLE with every move. -/
theorem sequencerMove_movesLeft {s s' : State} (hi : s.stage ≠ .idle) (hp : ∀ r, s.port ≠ .requested r)
    (h : sequencerMove s = .next s') : s'.movesLeft < s.movesLeft := by
  cases hst : s.stage <;> simp only [sequencerMove, hst, Host.Outcome.next.injEq] at h
  case idle => exact absurd hst hi
  case keyagree => exact stageKeyagree_movesLeft hst hp h
  case kdf => exact stageKdf_movesLeft hst hp h
  case mac => exact stageMac_movesLeft hst hp h
  case decrypt => exact stageDecrypt_movesLeft hst hp h
  all_goals rw [movesLeft_of_stage hst]
  case check => exact stageCheck_movesLeft h
  case parse => exact h ▸ stageParse_movesLeft s
  case dispatch => exact h ▸ stageDispatch_movesLeft s
  case hexdec => exact h ▸ stageHexdec_movesLeft s
  case keylen => exact stageKeylen_movesLeft h
  case split => exact h ▸ stageSplit_movesLeft s
  case decode => exact h ▸ Nat.lt_succ_self 2
  case assemble => exact h ▸ (emitChecked_movesLeft _ _).trans_lt (Nat.lt_succ_self 1)
  case commit => exact h ▸ (stageCommit_movesLeft s).trans_lt Nat.zero_lt_one
  case aux => exact stageAux_movesLeft h

/-- An engine's answer takes one move too: a request is on the port in its engine's own stage. -/
theorem deliver_movesLeft {s : State} {r : Request} (a : Answer) (hfits : portFits s.stage s.port)
    (hr : s.port = .requested r) : (s.deliver a).movesLeft < s.movesLeft := by
  rw [hr] at hfits
  cases r <;> simp only [portFits] at hfits <;>
    simp [State.movesLeft, hfits, hr, Stage.movesLeft, Port.movesLeft, kdfMovesLeft]

theorem ownMove_movesLeft {s s' : State} (hs : s.SequencerInv) (hi : s.stage ≠ .idle)
    (h : ownMove s = .next s') : s'.movesLeft < s.movesLeft := by
  obtain ⟨-, hport, -⟩ := hs
  obtain ⟨r, hr, e⟩ | ⟨hp, e⟩ := ownMove_cases s <;> rw [e] at h
  · exact Host.Outcome.next.inj h ▸ deliver_movesLeft _ hport hr
  · exact sequencerMove_movesLeft hi hp h

/-! ## A run ends in IDLE -/

/-- In IDLE no request is outstanding and no answer waits (R14). -/
theorem port_idle_of_stage_idle {s : State} (hs : s.SequencerInv) (hi : s.stage = .idle) : s.port = .idle := by
  obtain ⟨-, hport, -⟩ := hs
  exact port_idle_of_portFits hport (hi ▸ rfl)

/-- As many moves as are left bring a consistent sequencer to IDLE, its port free. -/
theorem settle_idle {n : Nat} {s : State} (hs : s.SequencerInv) (hn : s.movesLeft ≤ n) :
    ∃ t, settle n s = .next t ∧ t.stage = .idle ∧ t.port = .idle := by
  induction n generalizing s with
  | zero =>
    have hi := eq_idle_of_movesLeft_eq_zero (Nat.le_zero.1 hn)
    exact ⟨s, settle_zero s, hi, port_idle_of_stage_idle hs hi⟩
  | succ n ih =>
    by_cases hi : s.stage = .idle
    · have hp := port_idle_of_stage_idle hs hi
      exact ⟨s, settle_of_idle (n + 1) hi hp, hi, hp⟩
    · obtain ⟨t, e, ht⟩ := ownMove_next hs
      have hless := ownMove_movesLeft hs hi e
      rw [settle_succ n e]
      exact ih ht (by omega)

/-- A command that an idle block accepts has completed when its `run` is over (R116, R220). -/
theorem runCommand_idle {s : State} (i : Instr) (hb : s.busy = false) :
    ∃ t, runCommand i s = .next t ∧ t.stage = .idle ∧ t.port = .idle := by
  rw [runCommand_of_idle i hb]
  exact settle_idle (accept_sequencerInv s i) le_rfl

end Sys2Proof.Machine
end

section
/-! Where engine requests leave the block (R140, R151, R170): from a free port, by a move of the sequencer in an
engine's own stage, and by nothing else. -/

namespace Sys2Proof.Machine

/-- The request is of the engine of the stage, and one of a key-agreement engine carries the committed key of its slot
(R151, R170, R173, R180). -/
def State.MayRequest (s s' : State) : Request → Prop
  | .x25519 k _ => s.stage = .keyagree ∧ s.slotA.valid = true ∧ k = s.slotA.key.toList
  | .p256SmulX d x y =>
    s.stage = .keyagree ∧ s.slotB.valid = true ∧ d = s.slotB.key.toList ∧ s'.scratch.point = some (x, y)
  | .sha256 _ => s.stage = .kdf
  | .hmacSha256 _ _ => s.stage = .mac
  | .aes128Ctr _ _ _ => s.stage = .decrypt

/-! ## The other stages -/

/-- Outside the engines' stages a move leaves a free port free. -/
theorem sequencerMove_port_idle {s s' : State} (hst : s.stage.usesEngine = false) (hp : s.port = .idle)
    (h : sequencerMove s = .next s') : s'.port = .idle := by
  cases e : s.stage <;> simp only [sequencerMove, e, Host.Outcome.next.injEq] at h
  case idle => exact h ▸ hp
  case check => obtain ⟨o, r, -, rfl⟩ | ⟨i, -, -, -, rfl⟩ | ⟨i, -, -, -, rfl⟩ := stageCheck_cases h <;> simp [hp]
  case parse =>
    subst h
    obtain ⟨-, -, e⟩ | ⟨-, -, e⟩ | ⟨-, -, e⟩ | ⟨-, -, e⟩ | e := stageParse_cases s <;> rw [e] <;>
      simp [passthrough, hp]
  case dispatch =>
    subst h
    obtain ⟨-, e⟩ | e | e | e | ⟨-, e⟩ := stageDispatch_cases s <;> rw [e] <;>
      simp [passthrough, nullScheme, chooseProfile, hp]
  case hexdec =>
    subst h
    obtain ⟨-, e⟩ | ⟨d, -, e⟩ := stageHexdec_cases s <;> rw [e] <;> simp [hp]
  case keylen => obtain ⟨c, -, rfl⟩ | ⟨n, form, -, -, rfl⟩ := stageKeylen_cases h <;> simp [hp]
  case split => exact h ▸ hp
  case decode => exact h ▸ hp
  case assemble =>
    subst h
    unfold stageAssemble
    obtain ⟨-, e⟩ | ⟨-, e⟩ := emitChecked_cases _ _ <;> rw [e] <;> simp [hp]
  case commit =>
    subst h
    unfold stageCommit
    split <;> rfl
  case aux => obtain ⟨c, -, rfl⟩ | ⟨-, rfl⟩ | ⟨out, -, rfl⟩ := stageAux_cases h <;> simp [hp]
  case keyagree | kdf | mac | decrypt => simp [e, Stage.usesEngine] at hst

/-! ## The engines' stages -/

theorem stageKeyagree_request {s s' : State} {r : Request} (hst : s.stage = .keyagree) (hp : s.port = .idle)
    (h : stageKeyagree s = .next s') (hr : s'.port = .requested r) : s'.stage = s.stage ∧ s.MayRequest s' r := by
  obtain ⟨-, hb⟩ | ⟨q, e, -⟩ | ⟨e, -⟩ | ⟨z, e, -⟩ := stageKeyagree_cases h
  · obtain ⟨c, -, rfl⟩ | ⟨-, hvalid, rfl⟩ | ⟨form, pt, -, -, hvalid, -, rfl⟩ := beginAgreement_cases hb
    · simp at hr
    · obtain rfl := Port.requested.inj hr
      exact ⟨rfl, hst, hvalid, rfl⟩
    · obtain rfl := Port.requested.inj hr
      exact ⟨rfl, hst, hvalid, rfl, rfl⟩
  all_goals simp [hp] at e

theorem stageKdf_request {s s' : State} {r : Request} (hst : s.stage = .kdf) (hp : s.port = .idle)
    (h : stageKdf s = .next s') (hr : s'.port = .requested r) : s'.stage = s.stage ∧ s.MayRequest s' r := by
  obtain ⟨-, -, rfl⟩ | ⟨-, -, rfl⟩ | ⟨q, e, -⟩ | ⟨z, e, -⟩ := stageKdf_cases h
  · obtain rfl := Port.requested.inj hr
    exact ⟨rfl, hst⟩
  · simp [hp] at hr
  all_goals simp [hp] at e

theorem stageMac_request {s s' : State} {r : Request} (hst : s.stage = .mac) (hp : s.port = .idle)
    (h : stageMac s = .next s') (hr : s'.port = .requested r) : s'.stage = s.stage ∧ s.MayRequest s' r := by
  obtain ⟨-, rfl⟩ | ⟨q, e, -⟩ | ⟨tag, e, -, -⟩ | ⟨tag, e, -, -⟩ := stageMac_cases h
  · obtain rfl := Port.requested.inj hr
    exact ⟨rfl, hst⟩
  all_goals simp [hp] at e

theorem stageDecrypt_request {s s' : State} {r : Request} (hst : s.stage = .decrypt) (hp : s.port = .idle)
    (h : stageDecrypt s = .next s') (hr : s'.port = .requested r) : s'.stage = s.stage ∧ s.MayRequest s' r := by
  obtain ⟨-, rfl⟩ | ⟨q, e, -⟩ | ⟨z, e, -⟩ := stageDecrypt_cases h
  · obtain rfl := Port.requested.inj hr
    exact ⟨rfl, hst⟩
  all_goals simp [hp] at e

/-- A move that takes a free port to a request stays in its stage, which is the engine's own (R151, R170). -/
theorem sequencerMove_request {s s' : State} {r : Request} (h : sequencerMove s = .next s') (hp : s.port = .idle)
    (hr : s'.port = .requested r) : s'.stage = s.stage ∧ s.MayRequest s' r := by
  cases huses : s.stage.usesEngine with
  | false => simp [sequencerMove_port_idle huses hp h] at hr
  | true =>
    cases hst : s.stage <;> simp only [hst, Stage.usesEngine, Bool.false_eq_true] at huses <;>
      simp only [sequencerMove, hst] at h <;> rw [← hst]
    case keyagree => exact stageKeyagree_request hst hp h hr
    case kdf => exact stageKdf_request hst hp h hr
    case mac => exact stageMac_request hst hp h hr
    case decrypt => exact stageDecrypt_request hst hp h hr

/-! ## The other events -/

theorem engineMove_port_idle {s : State} (hp : s.port = .idle) : (engineMove s).port = .idle := by
  obtain ⟨r, e, -⟩ | ⟨-, e⟩ := engineMove_cases s
  · simp [hp] at e
  · rw [e, hp]

theorem runCommand_port_idle {s s' : State} {i : Instr} (hp : s.port = .idle) (h : runCommand i s = .next s') :
    s'.port = .idle := by
  cases hb : s.busy with
  | true =>
    rw [runCommand_of_busy i hb] at h
    exact Host.Outcome.next.inj h ▸ hp
  | false =>
    obtain ⟨t, e, -, ht⟩ := runCommand_idle i hb
    exact Host.Outcome.next.inj (e.symm.trans h) ▸ ht

/-- A write leaves the port alone, and the accept of a command frees it (R150). -/
theorem writeRegister_port_idle {s : State} (t : Target) (v : Word) (hp : s.port = .idle) :
    (s.writeRegister t v).port = .idle := by
  obtain ⟨-, e⟩ | ⟨-, e⟩ | ⟨-, e⟩ |
    ⟨-, ⟨-, e⟩ | ⟨-, e⟩ | ⟨-, e⟩ | ⟨-, e⟩ | ⟨w, -, e⟩ | ⟨w, -, e⟩ | ⟨i, -, e⟩⟩ := writeRegister_cases s t v <;>
    rw [e] <;> simp [hp]

theorem busWrite_port_idle {s s' : State} {addr width : Nat} {v : Word} (hp : s.port = .idle)
    (h : busWrite addr width v s = .next s') : s'.port = .idle := by
  obtain ⟨off, -, ⟨-, rfl⟩ | ⟨-, -, rfl⟩⟩ := busWrite_cases h
  · exact hp
  · exact writeRegister_port_idle _ v hp

/-- A step from a free port to a request is a move of the sequencer. -/
theorem step_request_cases {s s' : State} {r : Request} (h : step s = .next s') (hp : s.port = .idle)
    (hr : s'.port = .requested r) :
    (s.agenda = [] ∧ sequencerMove s = .next s') ∨
      ∃ rest, s.agenda = .sequencerMove :: rest ∧ sequencerMove (s.setAgenda rest) = .next s' := by
  have hbusy {P : Prop} (hfree : s'.port = .idle) : P := by simp [hfree] at hr
  obtain ⟨q, -, e, -⟩ | hown | ⟨rest, h⟩ := step_next_cases h
  · simp [hp] at e
  · exact .inl hown
  · obtain hmove | ⟨-, rfl⟩ | ⟨-, rfl⟩ | ⟨-, rfl⟩ | ⟨v, -, hrun⟩ | ⟨a, w, -, hread⟩ | ⟨a, w, v, -, hw⟩ := h
    · exact .inr ⟨rest, hmove⟩
    · exact hbusy (engineMove_port_idle (s := s.setAgenda rest) hp)
    · exact hbusy hp
    · exact hbusy rfl
    · exact hbusy (runCommand_port_idle (s := s.setAgenda rest) hp hrun)
    · obtain ⟨off, q, -, rfl⟩ := busRead_cases hread
      exact hbusy hp
    · exact hbusy (busWrite_port_idle (s := s.setAgenda rest) hp hw)

/-- Settles O50: the step is a move of the sequencer, whose requests are those of the engines' stages. -/
theorem requestsComeFromEngineStages : Obligations.RequestsComeFromEngineStages := by
  intro s s' r h hp hr
  obtain ⟨hag, hm⟩ | ⟨rest, hag, hm⟩ := step_request_cases h hp hr
  · obtain ⟨hstage, hreq⟩ := sequencerMove_request hm hp hr
    exact ⟨.inl hag, hstage, by cases r <;> exact hreq⟩
  · obtain ⟨hstage, hreq⟩ := sequencerMove_request (s := s.setAgenda rest) hm hp hr
    exact ⟨.inr ⟨rest, hag⟩, hstage, by cases r <;> exact hreq⟩

end Sys2Proof.Machine
end

section
/-! The end of a command as the host sees it (R220 to R222): a completion is `Completed`, and the run of DECONCEAL up
to PARSE and on to DISPATCH. -/

namespace Sys2Proof.Machine

/-! ## Completions -/

/-- The result string is as many bytes as OUT_LEN says, from the start of OUT_BUF (R40, R46, R111). -/
theorem output_eq_of_byteAt {t : State} {b : Bytes} (hlen : t.outLen.toNat = b.length)
    (hbytes : ∀ (i : Nat) (hi : i < b.length), t.byteAt (0x800 + i) = b[i]) : t.output = b := by
  refine List.ext_getElem (by simp [State.output, hlen]) fun i _ hi => ?_
  simp [State.output, State.outByte, hlen, hi, Config.outBufBase, hbytes i hi]

/-- OUT_BUF shows the result, where OUT_LEN can count its bytes (R220). -/
theorem complete_output {s : State} {q : Pending} (hok : q.code = .ok) (hlen : q.out.length < 0x10000) :
    (s.complete q).output = q.out := by
  refine output_eq_of_byteAt (by simp [hok, Nat.mod_eq_of_lt hlen]) fun i hi => ?_
  rw [complete_byteAt_ok s hok, if_pos (by omega), Nat.add_sub_cancel_left, List.getD_eq_getElem _ _ hi]

/-- A completion with a result that OUT_LEN can count (R220). -/
theorem completed_of_ok (s : State) {q : Pending} (hok : q.code = .ok) (hlen : q.out.length < 0x10000) :
    Completed s ((s.complete q).respond (.write .okay)) q where
  status := by simp [hok]
  outLen := by simp [hok, Nat.mod_eq_of_lt hlen]
  output := complete_output hok hlen
  memory a ha := (complete_byteAt_ok s hok a).trans (if_neg ha)
  sequencer := ⟨rfl, rfl, rfl, rfl⟩
  ctrl := rfl
  inLen := rfl
  slotA := rfl
  slotB := rfl
  others := ⟨rfl, rfl, rfl, rfl⟩
  response := rfl

/-- A completion with a failure (R222). -/
theorem completed_failed (s : State) {e : ResultCode} (he : e ≠ .ok) (k : Kind) :
    Completed s ((s.complete (failed e k)).respond (.write .okay)) (failed e k) where
  status := by simp [failed]
  outLen := by simp [failed, he]
  output := by simp [State.output, failed, he]
  memory a _ := complete_byteAt_fail s he a
  sequencer := ⟨rfl, rfl, rfl, rfl⟩
  ctrl := rfl
  inLen := rfl
  slotA := rfl
  slotB := rfl
  others := ⟨rfl, rfl, rfl, rfl⟩
  response := rfl

/-- A completion with a result that fits in OUT_BUF (R9, R217, R220). -/
theorem completed_succeeded {s : State} (hp : s.params.wf) {out : Bytes} (hfits : out.length ≤ s.params.outBufSize)
    (k : Kind) (raw : Bool) :
    Completed s ((s.complete (succeeded out k raw)).respond (.write .okay)) (succeeded out k raw) := by
  obtain ⟨-, -, -, -, hsize, -⟩ := hp
  exact completed_of_ok s rfl (by simp only [succeeded]; omega)

/-! ## The run of DECONCEAL -/

/-- DECONCEAL, accepted in `s`, in PARSE (R150). -/
def State.parsing (s : State) : State := ((s.accept .deconceal).respond (.write .okay)).gotoStage .parse

/-- DECONCEAL, accepted in `s`, in DISPATCH with its fields (R130). -/
def State.dispatching (s : State) : State :=
  (s.parsing.setScratch { s.parsing.scratch with fields := splitFields s.input }).gotoStage .dispatch

/-- CHECK lets a legal IN_LEN pass (R150). -/
theorem settle_accept_deconceal {s : State} (hlen : s.inLen.toNat ≤ s.params.inBufSize) :
    settle 1 ((s.accept .deconceal).respond (.write .okay)) = .next s.parsing := by
  have hcheck : sequencerMove ((s.accept .deconceal).respond (.write .okay)) = .next s.parsing := by
    simp [sequencerMove, stageCheck, Nat.not_lt.2 hlen, stageAfterCheck, State.parsing]
  exact settle_succ 0 ((ownMove_of_port_idle rfl).trans hcheck)

/-- A way from PARSE to the completion, within the moves of a `run`, is the meaning of DECONCEAL (R116). -/
theorem exec_deconceal_of_parsing {s : State} {n : Nat} {q : Pending} (hs : s.ready)
    (hlen : s.inLen.toNat ≤ s.params.inBufSize) (hn : n ≤ 24) (h : settle n s.parsing = .next (s.parsing.complete q)) :
    exec .deconceal s = .next ((s.complete q).respond (.write .okay)) := by
  obtain ⟨-, hidle⟩ := hs
  rw [exec_eq_runCommand, runCommand_of_idle _ hidle]
  have hrun := (settle_add n (settle_accept_deconceal hlen)).trans h
  exact settle_mono (by unfold commandMoves; omega) hrun rfl rfl

theorem ownMove_parse {s t : State} (hst : s.stage = .parse) (hp : s.port = .idle) (h : stageParse s = t) :
    ownMove s = .next t := by
  simp only [ownMove_of_port_idle hp, sequencerMove, hst, h]

theorem ownMove_dispatch {s t : State} (hst : s.stage = .dispatch) (hp : s.port = .idle) (h : stageDispatch s = t) :
    ownMove s = .next t := by
  simp only [ownMove_of_port_idle hp, sequencerMove, hst, h]

theorem ownMove_assemble {s t : State} (hst : s.stage = .assemble) (hp : s.port = .idle) (h : stageAssemble s = t) :
    ownMove s = .next t := by
  simp only [ownMove_of_port_idle hp, sequencerMove, hst, h]

/-- Where PARSE hands on to DISPATCH, the way from there to the completion is the meaning of DECONCEAL. -/
theorem exec_deconceal_of_dispatching {s : State} {n : Nat} {q : Pending} (hs : s.ready)
    (hlen : s.inLen.toNat ≤ s.params.inBufSize) (hparse : stageParse s.parsing = s.dispatching) (hn : n ≤ 23)
    (h : settle n s.dispatching = .next (s.dispatching.complete q)) :
    exec .deconceal s = .next ((s.complete q).respond (.write .okay)) :=
  exec_deconceal_of_parsing (n := n + 1) hs hlen (by omega)
    ((settle_succ n (ownMove_parse rfl rfl hparse)).trans h)

/-! ## What PARSE and DISPATCH do with their fields -/

/-- PARSE on a passthrough, by the walk the block takes (R131, R132, log 28). -/
theorem stageParse_of_passthrough {s : State} (h : isPassthrough (splitFields s.input) = true) :
    stageParse s =
      if s.params.passthroughViaDispatch then
        (s.setScratch { s.scratch with fields := splitFields s.input }).gotoStage .dispatch
      else passthrough (s.setScratch { s.scratch with fields := splitFields s.input }) :=
  if_pos h

/-- A `suci` is not a passthrough (R131). -/
theorem isPassthrough_of_suci {fields : List Bytes} (h : fields.headD [] = ascii "suci") :
    isPassthrough fields = false := by
  unfold isPassthrough
  rw [h]
  decide

/-- PARSE on a `suci` (R131, R134). -/
theorem stageParse_of_suci {s : State} (h : (splitFields s.input).headD [] = ascii "suci") :
    stageParse s =
      if (splitFields s.input).length < 6 then s.raiseFail .invalidFormat
      else (s.setScratch { s.scratch with fields := splitFields s.input }).gotoStage .dispatch := by
  have hnot := isPassthrough_of_suci h
  simp only [stageParse, hnot, h, if_true, Bool.false_eq_true, if_false]

/-- PARSE on any other first field (R131, R133). -/
theorem stageParse_of_unknownPrefix {s : State} (hpass : isPassthrough (splitFields s.input) = false)
    (hsuci : (splitFields s.input).headD [] ≠ ascii "suci") : stageParse s = s.raiseFail .unknownPrefix := by
  simp only [stageParse, hpass, hsuci, Bool.false_eq_true, if_false]

/-- DISPATCH on the Null scheme (R138). -/
theorem stageDispatch_of_null {s : State} (hpass : isPassthrough s.scratch.fields = false)
    (h : (bindFields s.scratch).protectionScheme = ascii "0") :
    stageDispatch s = nullScheme s (bindFields s.scratch) := by
  simp only [stageDispatch, hpass, h, Bool.false_eq_true, if_false, if_true]

/-- DISPATCH on a scheme that is none of the three (R137). -/
theorem stageDispatch_of_unrecognised {s : State} (hpass : isPassthrough s.scratch.fields = false)
    (h0 : (bindFields s.scratch).protectionScheme ≠ ascii "0")
    (h1 : (bindFields s.scratch).protectionScheme ≠ ascii "1")
    (h2 : (bindFields s.scratch).protectionScheme ≠ ascii "2") :
    stageDispatch s =
      if s.ctrl.legacyNullFallback then nullScheme s (bindFields s.scratch)
      else s.raiseFail .unsupportedScheme := by
  simp only [stageDispatch, hpass, h0, h1, h2, Bool.false_eq_true, if_false]

end Sys2Proof.Machine
end

section
/-! What DECONCEAL ends in where no profile is chosen (R131 to R138): a passthrough, the parser's failures, the Null
scheme and the schemes it does not know. -/

namespace Sys2Proof.Machine

/-! ## Ends -/

/-- A failure of PARSE is DECONCEAL's outcome, with KIND NONE (R262). -/
theorem exec_deconceal_of_parse_failure {s : State} {e : ResultCode} (hs : s.ready)
    (hlen : s.inLen.toNat ≤ s.params.inBufSize) (he : e ≠ .ok)
    (h : stageParse s.parsing = s.parsing.raiseFail e) :
    ∃ t, exec .deconceal s = .next t ∧ Completed s t (failed e .none) := by
  have hend : settle 2 s.parsing = .next (s.parsing.complete (failed e .none)) :=
    settle_fail (ownMove_parse rfl rfl h) he nofun
  exact ⟨_, exec_deconceal_of_parsing hs hlen (by omega) hend, completed_failed s he .none⟩

/-- A result completes in two moves, with the KIND and RAW so far (R220). -/
theorem settle_succeeded {s s' : State} {out : Bytes} (h : ownMove s = .next (s'.emit out)) (hp : s'.port = .idle)
    (hcmd : s'.cmd ≠ some .zeroize) (hok : s'.scratch.pending.code = .ok) :
    settle 2 s = .next (s'.complete (succeeded out s'.scratch.pending.kind s'.scratch.pending.raw)) := by
  rw [settle_emit h hp hcmd]
  simp only [succeeded, hok]

/-- From the move that takes the passthrough branch, two moves return IN (R132). -/
theorem settle_passthrough {s s' : State} (h : ownMove s = .next (passthrough s')) (hp : s'.port = .idle)
    (hcmd : s'.cmd ≠ some .zeroize) (hok : s'.scratch.pending.code = .ok) :
    settle 2 s = .next (s'.complete (succeeded s'.input .passthrough false)) :=
  settle_succeeded h hp hcmd hok

/-- ASSEMBLE emits a result that fits (R215 to R217). -/
theorem stageAssemble_of_fits {s : State}
    (hfits : (assembled s.scratch.supiType s.scratch.mcc s.scratch.mnc s.scratch.digits).length ≤
      s.params.outBufSize) :
    stageAssemble s =
      (s.setScratch
        { s.scratch with
          pending := { s.scratch.pending with raw := !isImsi s.scratch.supiType } }).emit
        (assembled s.scratch.supiType s.scratch.mcc s.scratch.mnc s.scratch.digits) :=
  if_neg (Nat.not_lt.2 hfits)

/-- From ASSEMBLE two moves return a result that fits, with its RAW (R216, R220). -/
theorem settle_assemble {s : State} {out : Bytes} (hst : s.stage = .assemble) (hp : s.port = .idle)
    (hcmd : s.cmd ≠ some .zeroize) (hok : s.scratch.pending.code = .ok)
    (hout : assembled s.scratch.supiType s.scratch.mcc s.scratch.mnc s.scratch.digits = out)
    (hfits : out.length ≤ s.params.outBufSize) :
    settle 2 s = .next (s.complete (succeeded out s.scratch.pending.kind (!isImsi s.scratch.supiType))) := by
  subst hout
  exact settle_succeeded (ownMove_assemble hst hp (stageAssemble_of_fits hfits)) hp hcmd hok

/-- From the move that takes the Null scheme, three moves return the assembled result, if it fits (R138, R215). -/
theorem settle_nullScheme {s s' : State} {c : Scratch} {out : Bytes} (h : ownMove s = .next (nullScheme s' c))
    (hp : s'.port = .idle) (hcmd : s'.cmd ≠ some .zeroize) (hok : c.pending.code = .ok)
    (hout : assembled c.supiType c.mcc c.mnc c.schemeOutput = out) (hfits : out.length ≤ s'.params.outBufSize) :
    settle 3 s = .next (s'.complete (succeeded out .null (!isImsi c.supiType))) :=
  (settle_succ 2 h).trans (settle_assemble (s := nullScheme s' c) rfl hp hcmd hok hout hfits)

/-! ## Passthrough -/

/-- A passthrough ends with IN as its result: PARSE takes the branch itself, or DISPATCH takes it one move later (R132,
R151, log 28). -/
theorem exec_deconceal_of_passthrough {s : State} (hs : s.ready) (hlen : s.inLen.toNat ≤ s.params.inBufSize)
    (hpass : isPassthrough (splitFields s.input) = true) :
    exec .deconceal s = .next ((s.complete (succeeded s.input .passthrough false)).respond (.write .okay)) := by
  have hparse := stageParse_of_passthrough (s := s.parsing) hpass
  cases hvia : s.params.passthroughViaDispatch with
  | false =>
    have hmove := hparse.trans (if_neg (Bool.eq_false_iff.1 hvia))
    have hend := settle_passthrough (ownMove_parse rfl rfl hmove) rfl nofun rfl
    exact exec_deconceal_of_parsing hs hlen (by omega) hend
  | true =>
    have hmove : stageDispatch s.dispatching = passthrough s.dispatching := if_pos hpass
    have hend := settle_passthrough (ownMove_dispatch rfl rfl hmove) rfl nofun rfl
    exact exec_deconceal_of_dispatching hs hlen (hparse.trans (if_pos hvia)) (by omega) hend

/-! ## The fields of a SUCI -/

/-- The last field is one of them. -/
theorem getLastD_length_le_sum (fields : List Bytes) :
    (fields.getLastD []).length ≤ (fields.map List.length).sum := by
  cases fields with
  | nil => exact Nat.le_refl 0
  | cons f fs =>
    rw [List.getLastD_cons]
    exact List.le_sum_of_mem (List.mem_map_of_mem List.getLastD_mem_cons)

/-- MCC, MNC and the scheme output are three fields of the six or more (R135). -/
theorem suciOf_length_le {fields : List Bytes} (h6 : 6 ≤ fields.length) :
    (suciOf fields).mcc.length + (suciOf fields).mnc.length + (suciOf fields).schemeOutput.length ≤
      (fields.map List.length).sum := by
  match fields, h6 with
  | f0 :: f1 :: f2 :: f3 :: f4 :: f5 :: rest, _ =>
    have hlast := getLastD_length_le_sum (f5 :: rest)
    have hsuci : (suciOf (f0 :: f1 :: f2 :: f3 :: f4 :: f5 :: rest)).schemeOutput = (f5 :: rest).getLastD [] := by
      simp [suciOf]
    rw [hsuci]
    simp only [suciOf, List.getD_cons_succ, List.getD_cons_zero, List.map_cons, List.sum_cons] at *
    omega

/-- The assembled result of a digit string no longer than the scheme output is no longer than IN: the five hyphens pay
for `imsi-` (R130, R215, R217). -/
theorem assembled_length_le {s : State} {u : Suci} {digits : Bytes} (hu : s.holdsSuci u)
    (hd : digits.length ≤ u.schemeOutput.length) :
    (assembled u.supiType u.mcc u.mnc digits).length ≤ s.inLen.toNat := by
  obtain ⟨-, -, h6, rfl⟩ := hu
  have hfields := suciOf_length_le h6
  have hinput : ((splitFields s.input).map List.length).sum + (splitFields s.input).length = s.inLen.toNat + 1 := by
    have hsplit := splitFrom_length [] s.input
    rw [List.length_nil, Nat.zero_add, input_length] at hsplit
    exact hsplit
  have himsi : (ascii "imsi-").length = 5 := rfl
  unfold assembled
  split
  · simp only [List.length_append, himsi]
    omega
  · omega

/-- R217 for a SUCI's result, IN_BUF_SIZE being at most OUT_BUF_SIZE (log 6). -/
theorem assembled_fits {s : State} {u : Suci} {digits : Bytes} (hs : s.ready) (hu : s.holdsSuci u)
    (hd : digits.length ≤ u.schemeOutput.length) :
    (assembled u.supiType u.mcc u.mnc digits).length ≤ s.params.outBufSize := by
  obtain ⟨⟨-, -, -, -, -, hsizes⟩, -⟩ := hs
  have hshort := assembled_length_le hu hd
  obtain ⟨hlen, -⟩ := hu
  omega

/-! ## A SUCI in DISPATCH -/

/-- PARSE hands a SUCI of six or more fields on to DISPATCH, with its fields (R130, R131). -/
theorem stageParse_of_holdsSuci {s : State} {u : Suci} (hu : s.holdsSuci u) :
    stageParse s.parsing = s.dispatching := by
  obtain ⟨-, hhead, h6, -⟩ := hu
  exact (stageParse_of_suci (s := s.parsing) hhead).trans (if_neg (Nat.not_lt.2 h6))

/-- For a SUCI the way from DISPATCH to the completion is the meaning of DECONCEAL. -/
theorem exec_deconceal_of_suci {s : State} {u : Suci} {n : Nat} {q : Pending} (hs : s.ready) (hu : s.holdsSuci u)
    (hn : n ≤ 23) (h : settle n s.dispatching = .next (s.dispatching.complete q)) :
    exec .deconceal s = .next ((s.complete q).respond (.write .okay)) := by
  have hparse := stageParse_of_holdsSuci hu
  obtain ⟨hlen, -⟩ := hu
  exact exec_deconceal_of_dispatching hs hlen hparse hn h

/-- The fields that DISPATCH binds are the SUCI's (R135). -/
theorem bindFields_dispatching {s : State} {u : Suci} (hu : s.holdsSuci u) :
    isPassthrough s.dispatching.scratch.fields = false ∧
      (bindFields s.dispatching.scratch).protectionScheme = u.protectionScheme := by
  obtain ⟨-, hhead, -, rfl⟩ := hu
  exact ⟨isPassthrough_of_suci hhead, rfl⟩

/-- The Null scheme's result, by the type of the SUPI (R215, R216). -/
def nullResult (u : Suci) : Pending :=
  if u.supiType = ascii "0" then succeeded (ascii "imsi-" ++ u.mcc ++ u.mnc ++ u.schemeOutput) .null false
  else succeeded u.schemeOutput .null true

theorem succeeded_assembled_null (u : Suci) :
    succeeded (assembled u.supiType u.mcc u.mnc u.schemeOutput) .null (!isImsi u.supiType) = nullResult u := by
  unfold nullResult assembled
  by_cases h : isImsi u.supiType = true
  · rw [if_pos h, if_pos ((isImsi_iff _).1 h), h]
    rfl
  · rw [if_neg h, if_neg fun hi => h ((isImsi_iff _).2 hi), Bool.eq_false_iff.2 h]
    rfl

/-- A SUCI that DISPATCH handles as Null ends in the Null scheme's result (R138). -/
theorem exec_deconceal_of_nullScheme {s : State} {u : Suci} (hs : s.ready) (hu : s.holdsSuci u)
    (h : stageDispatch s.dispatching = nullScheme s.dispatching (bindFields s.dispatching.scratch)) :
    ∃ t, exec .deconceal s = .next t ∧ Completed s t (nullResult u) := by
  have hfits := assembled_fits hs hu le_rfl
  obtain ⟨hp, -⟩ := id hs
  obtain ⟨-, -, -, hbound⟩ := id hu
  rw [← succeeded_assembled_null]
  refine ⟨_, exec_deconceal_of_suci (n := 3) hs hu (by omega) ?_, completed_succeeded hp hfits .null _⟩
  subst hbound
  exact settle_nullScheme (s' := s.dispatching) (ownMove_dispatch rfl rfl h) rfl nofun rfl rfl hfits

/-! ## The obligations -/

/-- Settles O15: IN is the result string, and fits in OUT_BUF because IN_BUF does. -/
theorem passthroughReturnsInput : Obligations.PassthroughReturnsInput := by
  intro s hs hlen hhead
  have hexec := exec_deconceal_of_passthrough hs hlen ((isPassthrough_iff _).2 hhead)
  obtain ⟨hp, -⟩ := hs
  have hfits : s.input.length ≤ s.params.outBufSize := by
    obtain ⟨-, -, -, -, -, hsizes⟩ := hp
    exact (input_length s).trans_le (hlen.trans hsizes)
  have hdone := completed_succeeded hp hfits .passthrough false
  exact ⟨_, hexec, hdone, BitVec.eq_of_toNat_eq (hdone.outLen.trans (input_length s))⟩

/-- Settles O16: both failures are PARSE's own. -/
theorem parserFailures : Obligations.ParserFailures := by
  refine fun s hs hlen => ⟨fun himsi hnai hsuci => ?unknown, fun hsuci hfew => ?invalid⟩
  case unknown =>
    have hpass : isPassthrough (splitFields s.input) = false :=
      Bool.eq_false_iff.2 fun h => ((isPassthrough_iff _).1 h).elim himsi hnai
    exact exec_deconceal_of_parse_failure hs hlen nofun (stageParse_of_unknownPrefix (s := s.parsing) hpass hsuci)
  case invalid =>
    exact exec_deconceal_of_parse_failure hs hlen nofun
      ((stageParse_of_suci (s := s.parsing) hsuci).trans (if_pos hfew))

/-- Settles O17: DISPATCH takes the Null scheme. -/
theorem nullSchemeResult : Obligations.NullSchemeResult := by
  intro s u hs hu hscheme
  obtain ⟨hpass, hbound⟩ := bindFields_dispatching hu
  exact exec_deconceal_of_nullScheme hs hu (stageDispatch_of_null hpass (hbound.trans hscheme))

/-- Settles O18: DISPATCH takes the Null scheme if the bit is 1, and fails if it is 0. -/
theorem unrecognisedSchemeFollowsTheLegacyBit : Obligations.UnrecognisedSchemeFollowsTheLegacyBit := by
  intro s u hs hu h0 h1 h2
  obtain ⟨hpass, hbound⟩ := bindFields_dispatching hu
  have hdispatch := stageDispatch_of_unrecognised hpass (hbound ▸ h0) (hbound ▸ h1) (hbound ▸ h2)
  by_cases hbit : s.ctrl.legacyNullFallback = false
  · have hfail : stageDispatch s.dispatching = s.dispatching.raiseFail .unsupportedScheme :=
      hdispatch.trans (if_neg (Bool.eq_false_iff.1 hbit))
    have hend : settle 2 s.dispatching = .next (s.dispatching.complete (failed .unsupportedScheme .none)) :=
      settle_fail (ownMove_dispatch rfl rfl hfail) nofun nofun
    rw [if_pos hbit]
    exact ⟨_, exec_deconceal_of_suci hs hu (by omega) hend,
      completed_failed s (e := .unsupportedScheme) nofun .none⟩
  · rw [if_neg hbit]
    exact exec_deconceal_of_nullScheme hs hu (hdispatch.trans (if_pos (Bool.eq_true_of_not_eq_false hbit)))

end Sys2Proof.Machine
end

section
/-! The stages of a profile (R152 to R202), each as its way to the completion: what the moves from a stage's start
complete with is the pure function of the steps that are left (R150, "Purity"). -/

namespace Sys2Proof.Machine

/-! ## The comparison of the MACs -/

/-- The OR of some bytes is 0 exactly when each of them is. -/
theorem foldl_or_eq_zero_iff (f : Nat → Byte) (l : List Nat) (d : Byte) :
    l.foldl (fun d i => d ||| f i) d = 0 ↔ d = 0 ∧ ∀ i ∈ l, f i = 0 := by
  induction l generalizing d with
  | nil => simp
  | cons i l ih =>
    have hor : d ||| f i = 0 ↔ d = 0 ∧ f i = 0 := BitVec.or_eq_zero_iff
    rw [List.foldl_cons, ih, hor, List.forall_mem_cons, and_assoc]

/-- R201 compares all eight bytes. -/
theorem macDiff_eq_zero_iff {a b : Bytes} (ha : a.length = 8) (hb : b.length = 8) : macDiff a b = 0 ↔ a = b := by
  unfold macDiff Config.macLen
  rw [foldl_or_eq_zero_iff]
  refine ⟨fun ⟨_, hbytes⟩ => List.ext_getElem (ha.trans hb.symm) fun i hia hib => ?_, fun h => ?_⟩
  · have hbyte := BitVec.xor_eq_zero_iff.1 (hbytes i (List.mem_range.2 (ha ▸ hia)))
    rwa [List.getD_eq_getElem _ _ hia, List.getD_eq_getElem _ _ hib] at hbyte
  · simp [h]

/-! ## Where a command stands -/

/-- A command that may still succeed stands at the start of a stage: no request is outstanding. ZEROIZE, whose
completion does more, is left out (R245). -/
structure State.Running (s : State) (st : Stage) : Prop where
  stage : s.stage = st
  port : s.port = .idle
  cmd : s.cmd ≠ some .zeroize
  code : s.scratch.pending.code = .ok

/-- The SUCI whose fields DISPATCH has bound (R135). -/
def Scratch.suci (c : Scratch) : Suci :=
  { supiType := c.supiType, mcc := c.mcc, mnc := c.mnc, protectionScheme := c.protectionScheme,
    schemeOutput := c.schemeOutput }

/-- The outcome for a plaintext, or for the failure in its place (R210 to R217). -/
def plainOutcome (c : Inputs) (u : Suci) (k : Kind) : Except ResultCode Bytes → Pending
  | .error e => failed e k
  | .ok plain => assembleOutcome c u k (decodeDigits u.supiType plain)

theorem profileOutcome_eq (c : Inputs) (u : Suci) (q : Profile) :
    profileOutcome c u q = plainOutcome c u (profileKind q) (profilePlaintext c q u.schemeOutput) := by
  unfold profileOutcome
  cases profilePlaintext c q u.schemeOutput <;> rfl

/-- What a running profile completes with, given its plaintext or the failure in its place. -/
def State.completePlain (s : State) (plain : Except ResultCode Bytes) : State :=
  s.complete (plainOutcome s.inputs s.scratch.suci s.scratch.pending.kind plain)

/-- What the completion depends on beside the plaintext. -/
theorem completePlain_congr {s t : State} {p : Except ResultCode Bytes} (hframe : ∀ q, t.complete q = s.complete q)
    (hinputs : t.inputs = s.inputs) (hsuci : t.scratch.suci = s.scratch.suci)
    (hkind : t.scratch.pending.kind = s.scratch.pending.kind) : t.completePlain p = s.completePlain p := by
  rw [State.completePlain, hframe, hinputs, hsuci, hkind]
  rfl

/-- What a key-agreement engine's answer leads to: the plaintext, or the failure in its place (R173, R180, R202). -/
def answerPlaintext (key ciphertext mac : Bytes) : Answer → Except ResultCode Bytes
  | .fail => .error .keyAgreementFailed
  | .ok z => openCiphertext z key ciphertext mac

/-- Key agreement, and the plaintext under the keys it leads to (R170 to R202). -/
def agreedPlaintext (c : Inputs) (q : Profile) (form : Option KeyForm) (eph ciphertext mac : Bytes) :
    Except ResultCode Bytes :=
  (agree c q form eph).bind fun zk => openCiphertext zk.1 zk.2 ciphertext mac

/-- R170 and R173. -/
theorem agreedPlaintext_a (c : Inputs) (form : Option KeyForm) (eph ciphertext mac : Bytes) :
    agreedPlaintext c .a form eph ciphertext mac =
      if c.slotA.valid then answerPlaintext eph ciphertext mac (answerX25519 c.slotA.key.toList eph)
      else .error .keyNotLoaded := by
  unfold agreedPlaintext agree
  cases c.slotA.valid
  · rfl
  · simp only [if_true]
    cases answerX25519 c.slotA.key.toList eph <;> rfl

/-- R170, R178 and R180. -/
theorem agreedPlaintext_b (c : Inputs) (form : KeyForm) (eph ciphertext mac : Bytes) :
    agreedPlaintext c .b (some form) eph ciphertext mac =
      if c.slotB.valid then
        match pointOf form eph with
        | none => .error .keyAgreementFailed
        | some pt =>
          answerPlaintext (P256.compressPoint pt) ciphertext mac (answerP256SmulX c.slotB.key.toList pt.1 pt.2)
      else .error .keyNotLoaded := by
  unfold agreedPlaintext agree
  cases c.slotB.valid
  · rfl
  · cases hpt : pointOf form eph with
    | none => simp only [Option.getD_some, hpt]; rfl
    | some pt =>
      simp only [Option.getD_some, hpt, if_true]
      cases answerP256SmulX c.slotB.key.toList pt.1 pt.2 <;> rfl

/-- A scheme output that is no hex text has no plaintext (R152). -/
theorem profilePlaintext_of_not_hex (c : Inputs) (q : Profile) {t : Bytes} (h : hexDecode t = none) :
    profilePlaintext c q t = .error .hexDecodeFailed := by
  simp only [profilePlaintext, h]

/-- Nor has one whose key has no known form or whose length is too short (R153, R154). -/
theorem profilePlaintext_of_layout_error (c : Inputs) {q : Profile} {t d : Bytes} {e : ResultCode}
    (h : hexDecode t = some d) (hlayout : keyLayout q d = .error e) : profilePlaintext c q t = .error e := by
  simp only [profilePlaintext, h, hlayout]

/-- R155: the split of a scheme output that is long enough. -/
theorem profilePlaintext_of_layout (c : Inputs) {q : Profile} {t d : Bytes} {n : Nat} {form : Option KeyForm}
    (h : hexDecode t = some d) (hlayout : keyLayout q d = .ok (n, form)) :
    profilePlaintext c q t =
      agreedPlaintext c q form (slice d 0 n) (slice d n (d.length - 8)) (slice d (d.length - 8) d.length) := by
  simp only [profilePlaintext, h, hlayout, agreedPlaintext]
  cases agree c q form (slice d 0 n) <;> rfl

/-! ## Moves to the end -/

/-- At the start of a stage the sequencer has the next move. -/
theorem State.Running.ownMove_eq {s : State} {st : Stage} (h : s.Running st) : ownMove s = sequencerMove s :=
  ownMove_of_port_idle h.port

/-- From `raise Fail` one move completes the command (R260). -/
theorem settle_raiseFail {s : State} {e : ResultCode} (he : e ≠ .ok) (hcmd : s.cmd ≠ some .zeroize) :
    settle 1 (s.raiseFail e) = .next (s.complete (failed e s.scratch.pending.kind)) := by
  rw [settle_commit (s := s.raiseFail e) rfl rfl, stageCommit_of_ne (s := s.raiseFail e) hcmd,
    complete_of_failure (s.raiseFail e) he]
  rfl

/-- From a result that has passed the output check, or failed it, one move completes the command (R217, R220). -/
theorem settle_emitChecked {s : State} (out : Bytes) (hp : s.port = .idle) (hcmd : s.cmd ≠ some .zeroize)
    (hok : s.scratch.pending.code = .ok) :
    settle 1 (s.emitChecked out) =
      .next (s.complete (sized s.inputs out s.scratch.pending.kind s.scratch.pending.raw)) := by
  obtain ⟨hlong, e⟩ | ⟨hfits, e⟩ := emitChecked_cases s out <;> rw [e]
  · rw [settle_raiseFail (by decide) hcmd, sized_of_lt (c := s.inputs) _ _ hlong]
  · rw [settle_commit (s := s.emit out) rfl hp, stageCommit_of_ne (s := s.emit out) hcmd,
      sized_of_le (c := s.inputs) _ _ hfits]
    simp only [State.emit_scratch, hok, State.emit_complete, succeeded]

/-- A request, its answer and the use of the answer are three moves (R14). -/
theorem settle_engine {s t u : State} {r : Request} {a : Answer} {n : Nat} (hreq : ownMove s = .next (t.issue r))
    (ha : engineAnswer r = a) (huse : sequencerMove (t.deliver a) = .next u) :
    settle (n + 3) s = settle n u := by
  subst ha
  rw [settle_succ _ hreq, settle_succ _ (ownMove_of_requested rfl)]
  exact settle_succ n ((ownMove_of_answered rfl).trans huse)

/-! ## The stages, from the last to the first -/

/-- ASSEMBLE (R215 to R217). -/
theorem settle_assembleOutcome {s : State} (h : s.Running .assemble) :
    settle 2 s =
      .next (s.complete (assembleOutcome s.inputs s.scratch.suci s.scratch.pending.kind s.scratch.digits)) :=
  (settle_succ 1 (ownMove_assemble h.stage h.port rfl)).trans (settle_emitChecked _ h.port h.cmd h.code)

/-- DECODE (R210, R211). -/
theorem settle_decode {s : State} (h : s.Running .decode) :
    settle 3 s = .next (s.completePlain (.ok s.scratch.plaintext)) := by
  have hmove : ownMove s = .next (stageDecode s) := by simp only [h.ownMove_eq, sequencerMove, h.stage]
  rw [settle_succ 2 hmove]
  exact settle_assembleOutcome (s := stageDecode s) ⟨rfl, h.port, h.cmd, h.code⟩

/-- DECRYPT (R202). -/
theorem settle_decrypt {s : State} (h : s.Running .decrypt) :
    settle 6 s =
      .next (s.completePlain (.ok (Aes128.ctr s.scratch.encKey s.scratch.icb s.scratch.ciphertext))) := by
  have hreq : ownMove s = .next (s.issue (.aes128Ctr s.scratch.encKey s.scratch.icb s.scratch.ciphertext)) := by
    simp only [h.ownMove_eq, sequencerMove, h.stage, stageDecrypt, h.port]
  obtain ⟨z, hz⟩ : ∃ z, Aes128.ctr s.scratch.encKey s.scratch.icb s.scratch.ciphertext = z := ⟨_, rfl⟩
  have huse : sequencerMove (s.deliver (.ok z)) = takePlaintext (s.deliver (.ok z)) (.ok z) := by
    simp only [sequencerMove, State.deliver_stage, h.stage]
    rfl
  rw [hz]
  refine (settle_engine hreq (congrArg Answer.ok hz) huse).trans ?_
  refine (settle_decode ?running).trans ?frame
  case running => exact ⟨rfl, rfl, h.cmd, h.code⟩
  case frame => exact congrArg _ (completePlain_congr (fun _ => rfl) rfl rfl rfl)

/-- MAC: decryption only where the MACs are equal (R200, R201, R203). -/
theorem settle_mac {s : State} (h : s.Running .mac) (hmac : s.scratch.mac.length = 8) :
    settle 9 s =
      .next (s.completePlain
        (if slice (Sha256.hmac s.scratch.macKey s.scratch.ciphertext) 0 8 = s.scratch.mac then
          .ok (Aes128.ctr s.scratch.encKey s.scratch.icb s.scratch.ciphertext)
        else .error .macVerificationFailed)) := by
  have hreq : ownMove s = .next (s.issue (.hmacSha256 s.scratch.macKey s.scratch.ciphertext)) := by
    simp only [h.ownMove_eq, sequencerMove, h.stage, stageMac, h.port]
  obtain ⟨tag, htag⟩ : ∃ tag, Sha256.hmac s.scratch.macKey s.scratch.ciphertext = tag := ⟨_, rfl⟩
  have huse : sequencerMove (s.deliver (.ok tag)) = takeTag (s.deliver (.ok tag)) (.ok tag) := by
    simp only [sequencerMove, State.deliver_stage, h.stage]
    rfl
  have htake := huse.trans (takeTag_ok _ tag)
  have hlen : (slice tag 0 8).length = 8 := by rw [slice_length, ← htag, hmac_length]; rfl
  have hdiff := macDiff_eq_zero_iff hlen hmac
  rw [htag]
  by_cases heq : slice tag 0 8 = s.scratch.mac
  · rw [if_pos heq]
    have hnext := htake.trans (if_pos (hdiff.2 heq))
    refine (settle_engine hreq (congrArg Answer.ok htag) hnext).trans ?_
    refine (settle_decrypt ?running).trans ?frame
    case running => exact ⟨rfl, rfl, h.cmd, h.code⟩
    case frame => exact congrArg _ (completePlain_congr (fun _ => rfl) rfl rfl rfl)
  · rw [if_neg heq]
    have hnext := htake.trans (if_neg fun h0 => heq (hdiff.1 h0))
    have hend := (settle_engine (n := 1) hreq (congrArg Answer.ok htag) hnext).trans
      (settle_raiseFail (by decide) h.cmd)
    exact settle_mono (by omega) hend rfl rfl

/-- The state after a round of the KDF with the digest `z` (R191). -/
def State.afterRound (s : State) (z : Bytes) : State :=
  ((s.deliver (.ok z)).setScratch
    { s.scratch with derived := s.scratch.derived ++ z, kdfRound := s.scratch.kdfRound + 1 }).release

theorem State.Running.afterRound {s : State} (h : s.Running .kdf) (z : Bytes) : (s.afterRound z).Running .kdf :=
  ⟨h.stage, rfl, h.cmd, h.code⟩

theorem afterRound_kdfRound (s : State) (z : Bytes) :
    (s.afterRound z).scratch.kdfRound = s.scratch.kdfRound + 1 := rfl

theorem afterRound_completePlain (s : State) (z : Bytes) (p : Except ResultCode Bytes) :
    (s.afterRound z).completePlain p = s.completePlain p :=
  completePlain_congr (fun _ => rfl) rfl rfl rfl

theorem afterRound_derived (s : State) (z : Bytes) :
    (s.afterRound z).scratch.derived = s.scratch.derived ++ z := rfl

/-- One round of the KDF (R191). -/
theorem settle_kdfRound {s : State} {z : Bytes} (n : Nat) (h : s.Running .kdf) (hround : s.scratch.kdfRound < 2)
    (hz : Sha256.digest (kdfInput s.scratch.sharedSecret s.scratch.kdfPublicKey (s.scratch.kdfRound + 1)) = z) :
    settle (n + 3) s = settle n (s.afterRound z) := by
  have hreq : ownMove s = .next (s.issue
      (.sha256 (kdfInput s.scratch.sharedSecret s.scratch.kdfPublicKey (s.scratch.kdfRound + 1)))) := by
    simp only [h.ownMove_eq, sequencerMove, h.stage, stageKdf, h.port, kdfAdvance, kdfRounds_eq, hround, if_true]
  have huse : sequencerMove (s.deliver (.ok z)) = .next (s.afterRound z) := by
    simp only [sequencerMove, State.deliver_stage, h.stage]
    rfl
  exact settle_engine hreq (congrArg Answer.ok hz) huse

/-- The key split at the end of the KDF, and the way from there (R192). -/
theorem settle_splitKeys {s : State} (h : s.Running .kdf) (hround : s.scratch.kdfRound = 2)
    (hderived : s.scratch.derived = derivedBuffer s.scratch.sharedSecret s.scratch.kdfPublicKey)
    (hmac : s.scratch.mac.length = 8) :
    settle 10 s =
      .next (s.completePlain (openCiphertext s.scratch.sharedSecret s.scratch.kdfPublicKey s.scratch.ciphertext
        s.scratch.mac)) := by
  have hmove : ownMove s = .next ((s.setScratch (splitKeys s.scratch)).gotoStage .mac) := by
    simp only [h.ownMove_eq, sequencerMove, h.stage, stageKdf, h.port, kdfAdvance, kdfRounds_eq, hround,
      Nat.lt_irrefl, if_false]
  have hmacKey : (splitKeys s.scratch).macKey = slice s.scratch.derived 32 64 := by
    have hlen : s.scratch.derived.length = 64 := by simp [hderived, derivedBuffer]
    simp only [splitKeys, hlen]
    rfl
  have hend := settle_mac (s := (s.setScratch (splitKeys s.scratch)).gotoStage .mac)
    ⟨rfl, h.port, h.cmd, h.code⟩ hmac
  simp only [State.gotoStage_scratch, State.setScratch_scratch, hmacKey] at hend
  refine (settle_succ 9 hmove).trans (hend.trans ?_)
  rw [openCiphertext, ← hderived]
  exact congrArg _ (completePlain_congr (fun _ => rfl) rfl rfl rfl)

/-- The KDF has not begun, and the received MAC has its eight bytes. -/
structure State.BeforeKdf (s : State) : Prop where
  kdfRound : s.scratch.kdfRound = 0
  derived : s.scratch.derived = []
  mac : s.scratch.mac.length = 8

/-- KDF: two rounds and the key split (R190 to R192). -/
theorem settle_kdf {s : State} (h : s.Running .kdf) (hk : s.BeforeKdf) :
    settle 16 s =
      .next (s.completePlain (openCiphertext s.scratch.sharedSecret s.scratch.kdfPublicKey s.scratch.ciphertext
        s.scratch.mac)) := by
  obtain ⟨hround, hderived, hmac⟩ := hk
  obtain ⟨z₁, hz₁⟩ : ∃ z, Sha256.digest (kdfInput s.scratch.sharedSecret s.scratch.kdfPublicKey 1) = z :=
    ⟨_, rfl⟩
  obtain ⟨z₂, hz₂⟩ : ∃ z, Sha256.digest (kdfInput s.scratch.sharedSecret s.scratch.kdfPublicKey 2) = z :=
    ⟨_, rfl⟩
  have hround₁ : (s.afterRound z₁).scratch.kdfRound = 1 := by rw [afterRound_kdfRound, hround]
  have hround₂ : ((s.afterRound z₁).afterRound z₂).scratch.kdfRound = 2 := by rw [afterRound_kdfRound, hround₁]
  have hbuffer : ((s.afterRound z₁).afterRound z₂).scratch.derived =
      derivedBuffer s.scratch.sharedSecret s.scratch.kdfPublicKey := by
    rw [afterRound_derived, afterRound_derived, hderived, derivedBuffer, hz₁, hz₂, List.nil_append]
  rw [settle_kdfRound (z := z₁) 13 h (by rw [hround]; decide) (by rw [hround, hz₁]),
    settle_kdfRound (z := z₂) 10 (h.afterRound z₁) (by rw [hround₁]; decide) (by rw [hround₁]; exact hz₂),
    settle_splitKeys ((h.afterRound z₁).afterRound z₂) hround₂ hbuffer hmac,
    afterRound_completePlain, afterRound_completePlain]
  rfl

/-- KEYAGREE, from the request on: a failure of the engine, or its secret for the KDF (R173, R180). -/
theorem settle_agreement {s t : State} {r : Request} (hreq : ownMove s = .next (t.issue r)) (ht : t.Running .keyagree)
    (hk : t.BeforeKdf) :
    settle 19 s =
      .next (t.completePlain
        (answerPlaintext t.scratch.kdfPublicKey t.scratch.ciphertext t.scratch.mac (engineAnswer r))) := by
  have huse (a : Answer) : sequencerMove (t.deliver a) = .next (takeSharedSecret (t.deliver a) a) := by
    simp only [sequencerMove, State.deliver_stage, ht.stage]
    rfl
  cases ha : engineAnswer r with
  | fail =>
    have hend := (settle_engine (n := 1) hreq ha (huse .fail)).trans (settle_raiseFail (by decide) ht.cmd)
    exact settle_mono (by omega) hend rfl rfl
  | ok z =>
    refine (settle_engine hreq ha (huse (.ok z))).trans ?_
    refine (settle_kdf ?running ?before).trans ?frame
    case running => exact ⟨rfl, rfl, ht.cmd, ht.code⟩
    case before => exact ⟨hk.kdfRound, hk.derived, hk.mac⟩
    case frame => exact congrArg _ (completePlain_congr (fun _ => rfl) rfl rfl rfl)

/-- A failure in place of the plaintext, within the moves of any stage (R260). -/
theorem settle_plainFailure {s : State} {e : ResultCode} {n : Nat} (hmove : ownMove s = .next (s.raiseFail e))
    (he : e ≠ .ok) (hcmd : s.cmd ≠ some .zeroize) (hn : 2 ≤ n) :
    settle n s = .next (s.completePlain (.error e)) :=
  settle_mono hn (settle_fail hmove he hcmd) rfl rfl

/-- KEYAGREE for Profile A: the key slot, then the engine (R170, R173). -/
theorem settle_agreeA {s : State} (h : s.Running .keyagree) (hprofile : s.scratch.profile = some .a)
    (hk : s.BeforeKdf) :
    settle 19 s =
      .next (s.completePlain (agreedPlaintext s.inputs .a s.scratch.form s.scratch.ephemeralKey s.scratch.ciphertext
        s.scratch.mac)) := by
  have hmove : ownMove s = .next (agreeA s) := by
    simp only [h.ownMove_eq, sequencerMove, h.stage, stageKeyagree, h.port, beginAgreement, hprofile]
  rw [agreedPlaintext_a]
  unfold agreeA at hmove
  by_cases hvalid : s.slotA.valid = true
  · rw [if_pos hvalid] at hmove
    rw [if_pos (show s.inputs.slotA.valid = true from hvalid)]
    have hend := settle_agreement hmove ⟨h.stage, h.port, h.cmd, h.code⟩ ⟨hk.kdfRound, hk.derived, hk.mac⟩
    exact hend.trans (congrArg _ (completePlain_congr (fun _ => rfl) rfl rfl rfl))
  · rw [if_neg hvalid] at hmove
    rw [if_neg (show ¬ s.inputs.slotA.valid = true from hvalid)]
    exact settle_plainFailure hmove (by decide) h.cmd (by omega)

/-- KEYAGREE for Profile B: the key slot, the point, then the engine (R170, R174 to R181). -/
theorem settle_agreeB {s : State} {form : KeyForm} (h : s.Running .keyagree) (hprofile : s.scratch.profile = some .b)
    (hform : s.scratch.form = some form) (hk : s.BeforeKdf) :
    settle 19 s =
      .next (s.completePlain (agreedPlaintext s.inputs .b s.scratch.form s.scratch.ephemeralKey s.scratch.ciphertext
        s.scratch.mac)) := by
  have hmove : ownMove s = .next (agreeB s form) := by
    simp only [h.ownMove_eq, sequencerMove, h.stage, stageKeyagree, h.port, beginAgreement, hprofile, hform]
  rw [hform, agreedPlaintext_b]
  unfold agreeB at hmove
  by_cases hvalid : s.slotB.valid = true
  · rw [if_pos hvalid] at hmove
    rw [if_pos (show s.inputs.slotB.valid = true from hvalid)]
    cases hpt : pointOf form s.scratch.ephemeralKey with
    | none =>
      rw [hpt] at hmove
      exact settle_plainFailure hmove (by decide) h.cmd (by omega)
    | some pt =>
      rw [hpt] at hmove
      have hend := settle_agreement hmove ⟨h.stage, h.port, h.cmd, h.code⟩ ⟨hk.kdfRound, hk.derived, hk.mac⟩
      exact hend.trans (congrArg _ (completePlain_congr (fun _ => rfl) rfl rfl rfl))
  · rw [if_neg hvalid] at hmove
    rw [if_neg (show ¬ s.inputs.slotB.valid = true from hvalid)]
    exact settle_plainFailure hmove (by decide) h.cmd (by omega)

end Sys2Proof.Machine
end

section
/-! DECONCEAL and the other commands from their accept to their completion: the outcome is `commandOutcome` (R150). -/

namespace Sys2Proof.Machine

/-! ## KEYLEN and before -/

/-- R153, R154: a failure, or a layout that leaves room for the MAC and has a form for Profile B. -/
theorem keyLayout_cases (q : Profile) (d : Bytes) :
    (∃ e, e ≠ .ok ∧ keyLayout q d = .error e) ∨
      ∃ n form, n + 8 ≤ d.length ∧ (q = .b → form ≠ none) ∧ keyLayout q d = .ok (n, form) := by
  have hsized (n : Nat) (form : Option KeyForm) (hform : q = .b → form ≠ none)
      (h : keyLayout q d = if d.length < n + 8 then .error .inputTooShort else .ok (n, form)) :
      (∃ e, e ≠ .ok ∧ keyLayout q d = .error e) ∨
        ∃ n form, n + 8 ≤ d.length ∧ (q = .b → form ≠ none) ∧ keyLayout q d = .ok (n, form) := by
    by_cases hlen : d.length < n + 8
    · exact .inl ⟨_, by decide, h.trans (if_pos hlen)⟩
    · exact .inr ⟨n, form, Nat.not_lt.1 hlen, hform, h.trans (if_neg hlen)⟩
  cases q with
  | a => exact hsized 32 none nofun (keyLayout_a d)
  | b =>
    cases d with
    | nil => exact .inl ⟨_, by decide, keyLayout_b_nil⟩
    | cons b d =>
      have h := keyLayout_b_cons b d
      by_cases hcompressed : b = 0x02 ∨ b = 0x03
      · exact hsized 33 (some .compressed) nofun (h.trans (if_pos hcompressed))
      · have h := h.trans (if_neg hcompressed)
        by_cases huncompressed : b = 0x04
        · exact hsized 65 (some .uncompressed) nofun (h.trans (if_pos huncompressed))
        · exact .inl ⟨_, by decide, h.trans (if_neg huncompressed)⟩

/-- KEYLEN is `keyLayout` (R153, R154). -/
theorem stageKeylen_eq {s : State} {q : Profile} (h : s.scratch.profile = some q) :
    stageKeylen s =
      .next
        (match keyLayout q s.scratch.decoded with
         | .error e => s.raiseFail e
         | .ok (n, form) => (s.setScratch { s.scratch with pubKeyLen := n, form := form }).gotoStage .split) := by
  have hcheck (n : Nat) (form : Option KeyForm) :
      checkTotalLength s n form =
        match (if s.scratch.decoded.length < n + 8 then .error .inputTooShort else .ok (n, form) :
          Except ResultCode (Nat × Option KeyForm)) with
        | .error e => s.raiseFail e
        | .ok (n, form) => (s.setScratch { s.scratch with pubKeyLen := n, form := form }).gotoStage .split := by
    obtain ⟨hl, e⟩ | ⟨hl, e⟩ := checkTotalLength_cases s n form <;> rw [e]
    · rw [if_pos hl]
    · rw [if_neg (by omega)]
  unfold stageKeylen
  rw [h]
  cases q with
  | a => exact congrArg _ (hcheck 32 none)
  | b =>
    unfold keyLengthB
    cases hd : s.scratch.decoded with
    | nil => rfl
    | cons b d =>
      rw [hd] at hcheck
      rw [keyLayout_b_cons]
      simp only
      split
      · exact congrArg _ (hcheck 33 _)
      · split
        · exact congrArg _ (hcheck 65 _)
        · rfl

/-- DECONCEAL has chosen the profile `q`, and the KDF has not begun (R136). -/
structure State.Chosen (s : State) (q : Profile) : Prop where
  profile : s.scratch.profile = some q
  kdfRound : s.scratch.kdfRound = 0
  derived : s.scratch.derived = []

theorem settle_keyagree {s : State} {q : Profile} (h : s.Running .keyagree) (hq : s.Chosen q)
    (hform : q = .b → s.scratch.form ≠ none) (hmac : s.scratch.mac.length = 8) :
    settle 19 s =
      .next (s.completePlain (agreedPlaintext s.inputs q s.scratch.form s.scratch.ephemeralKey s.scratch.ciphertext
        s.scratch.mac)) := by
  have hk : s.BeforeKdf := ⟨hq.kdfRound, hq.derived, hmac⟩
  cases q with
  | a => exact settle_agreeA h hq.profile hk
  | b =>
    obtain ⟨form, hsome⟩ := Option.ne_none_iff_exists'.1 (hform rfl)
    exact settle_agreeB h hq.profile hsome hk

/-- SPLIT (R155). -/
theorem settle_split {s : State} {q : Profile} (h : s.Running .split) (hq : s.Chosen q)
    (hform : q = .b → s.scratch.form ≠ none) (hlen : 8 ≤ s.scratch.decoded.length) :
    settle 20 s =
      .next (s.completePlain (agreedPlaintext s.inputs q s.scratch.form
        (slice s.scratch.decoded 0 s.scratch.pubKeyLen)
        (slice s.scratch.decoded s.scratch.pubKeyLen (s.scratch.decoded.length - 8))
        (slice s.scratch.decoded (s.scratch.decoded.length - 8) s.scratch.decoded.length))) := by
  have hmove : ownMove s = .next (stageSplit s) := by simp only [h.ownMove_eq, sequencerMove, h.stage]
  have hmac : (stageSplit s).scratch.mac.length = 8 := by
    show (slice s.scratch.decoded (s.scratch.decoded.length - 8) s.scratch.decoded.length).length = 8
    rw [slice_length]
    omega
  rw [settle_succ 19 hmove, settle_keyagree (s := stageSplit s) ⟨rfl, h.port, h.cmd, h.code⟩
    ⟨hq.profile, hq.kdfRound, hq.derived⟩ hform hmac]
  exact congrArg _ (completePlain_congr (fun _ => rfl) rfl rfl rfl)

/-- KEYLEN: a failure, or on to SPLIT (R153, R154). -/
theorem settle_keylen {s : State} {q : Profile} (h : s.Running .keylen) (hq : s.Chosen q)
    (hdecoded : hexDecode s.scratch.schemeOutput = some s.scratch.decoded) :
    settle 21 s = .next (s.completePlain (profilePlaintext s.inputs q s.scratch.schemeOutput)) := by
  have hmove : ownMove s = stageKeylen s := by simp only [h.ownMove_eq, sequencerMove, h.stage]
  rw [stageKeylen_eq hq.profile] at hmove
  obtain ⟨e, he, hlayout⟩ | ⟨n, form, hlen, hform, hlayout⟩ := keyLayout_cases q s.scratch.decoded <;>
    rw [hlayout] at hmove
  · rw [profilePlaintext_of_layout_error _ hdecoded hlayout]
    exact settle_plainFailure hmove he h.cmd (by omega)
  · rw [profilePlaintext_of_layout _ hdecoded hlayout, settle_succ 20 hmove]
    refine (settle_split (q := q) ?running ?chosen hform ?room).trans ?frame
    case running => exact ⟨rfl, h.port, h.cmd, h.code⟩
    case chosen => exact ⟨hq.profile, hq.kdfRound, hq.derived⟩
    case room => exact (Nat.le_add_left 8 n).trans hlen
    case frame => exact congrArg _ (completePlain_congr (fun _ => rfl) rfl rfl rfl)

/-- HEXDEC: a failure, or on to KEYLEN (R152). -/
theorem settle_hexdec {s : State} {q : Profile} (h : s.Running .hexdec) (hq : s.Chosen q) :
    settle 22 s = .next (s.completePlain (profilePlaintext s.inputs q s.scratch.schemeOutput)) := by
  have hmove : ownMove s = .next (stageHexdec s) := by simp only [h.ownMove_eq, sequencerMove, h.stage]
  obtain ⟨hhex, e⟩ | ⟨d, hhex, e⟩ := stageHexdec_cases s <;> rw [e] at hmove
  · rw [profilePlaintext_of_not_hex _ _ hhex]
    exact settle_plainFailure hmove (by decide) h.cmd (by omega)
  · rw [settle_succ 21 hmove]
    refine (settle_keylen (q := q) ?running ?chosen hhex).trans ?frame
    case running => exact ⟨rfl, h.port, h.cmd, h.code⟩
    case chosen => exact ⟨hq.profile, hq.kdfRound, hq.derived⟩
    case frame => exact congrArg _ (completePlain_congr (fun _ => rfl) rfl rfl rfl)

end Sys2Proof.Machine
end

section
/-! Every command from its accept to its completion: the sequencer's walk refines the pure outcome (R150, R151). -/

namespace Sys2Proof.Machine

/-! ## DISPATCH -/

/-- The protection scheme of a profile (R136). -/
def profileScheme : Profile → Bytes
  | .a => ascii "1"
  | .b => ascii "2"

/-- A profile's scheme gives the profile's outcome (R136). -/
theorem suciOutcome_of_profile (c : Inputs) {u : Suci} {q : Profile} (h : u.protectionScheme = profileScheme q) :
    suciOutcome c u = plainOutcome c u (profileKind q) (profilePlaintext c q u.schemeOutput) := by
  rw [← profileOutcome_eq, suciOutcome, h]
  cases q <;> rfl

/-- DISPATCH on a profile's scheme (R136). -/
theorem stageDispatch_of_profile {s : State} {q : Profile} (hpass : isPassthrough s.scratch.fields = false)
    (h : (bindFields s.scratch).protectionScheme = profileScheme q) :
    stageDispatch s = chooseProfile s (bindFields s.scratch) q (profileKind q) := by
  simp only [stageDispatch, hpass, h, Bool.false_eq_true, if_false]
  cases q <;> rfl

/-- The Null scheme's outcome (R138). -/
theorem suciOutcome_of_null (c : Inputs) {u : Suci} (h : u.protectionScheme = ascii "0") :
    suciOutcome c u = assembleOutcome c u .null u.schemeOutput :=
  if_pos h

/-- The outcome of a scheme that is none of the three (R137). -/
theorem suciOutcome_of_unrecognised (c : Inputs) {u : Suci} (h0 : u.protectionScheme ≠ ascii "0")
    (h1 : u.protectionScheme ≠ ascii "1") (h2 : u.protectionScheme ≠ ascii "2") :
    suciOutcome c u =
      if c.legacyNullFallback then assembleOutcome c u .null u.schemeOutput else failed .unsupportedScheme .none := by
  rw [suciOutcome, if_neg h0, if_neg h1, if_neg h2]

/-- From the Null scheme on (R138, R215). -/
theorem settle_null {s : State}
    (h : stageDispatch s.dispatching = nullScheme s.dispatching (bindFields s.dispatching.scratch)) :
    settle 3 s.dispatching =
      .next (s.dispatching.complete (assembleOutcome s.inputs (suciOf (splitFields s.input)) .null
        (suciOf (splitFields s.input)).schemeOutput)) :=
  (settle_succ 2 (ownMove_dispatch rfl rfl h)).trans
    (settle_assembleOutcome (s := nullScheme s.dispatching (bindFields s.dispatching.scratch))
      ⟨rfl, rfl, nofun, rfl⟩)

/-- From the choice of a profile on (R136, R152 to R217). -/
theorem settle_profile {s : State} {q : Profile}
    (h : stageDispatch s.dispatching =
      chooseProfile s.dispatching (bindFields s.dispatching.scratch) q (profileKind q)) :
    settle 23 s.dispatching =
      .next (s.dispatching.complete (plainOutcome s.inputs (suciOf (splitFields s.input)) (profileKind q)
        (profilePlaintext s.inputs q (suciOf (splitFields s.input)).schemeOutput))) :=
  (settle_succ 22 (ownMove_dispatch rfl rfl h)).trans
    (settle_hexdec (s := chooseProfile s.dispatching (bindFields s.dispatching.scratch) q (profileKind q))
      ⟨rfl, rfl, nofun, rfl⟩ ⟨rfl, rfl, rfl⟩)

/-- From DISPATCH on, whatever the scheme (R135 to R138). -/
theorem settle_dispatching {s : State} (hpass : isPassthrough (splitFields s.input) = false) :
    settle 23 s.dispatching =
      .next (s.dispatching.complete (suciOutcome s.inputs (suciOf (splitFields s.input)))) := by
  have hprofile {q : Profile} (hq : (suciOf (splitFields s.input)).protectionScheme = profileScheme q) :
      settle 23 s.dispatching =
        .next (s.dispatching.complete (suciOutcome s.inputs (suciOf (splitFields s.input)))) := by
    rw [suciOutcome_of_profile _ hq]
    exact settle_profile (stageDispatch_of_profile (s := s.dispatching) hpass hq)
  by_cases h0 : (suciOf (splitFields s.input)).protectionScheme = ascii "0"
  · rw [suciOutcome_of_null _ h0]
    exact settle_mono (by omega) (settle_null (stageDispatch_of_null (s := s.dispatching) hpass h0)) rfl rfl
  by_cases h1 : (suciOf (splitFields s.input)).protectionScheme = ascii "1"
  · exact hprofile (q := .a) h1
  by_cases h2 : (suciOf (splitFields s.input)).protectionScheme = ascii "2"
  · exact hprofile (q := .b) h2
  have hdispatch := stageDispatch_of_unrecognised (s := s.dispatching) hpass h0 h1 h2
  rw [suciOutcome_of_unrecognised _ h0 h1 h2]
  by_cases hbit : s.ctrl.legacyNullFallback = true
  · rw [if_pos (show s.inputs.legacyNullFallback = true from hbit)]
    exact settle_mono (by omega) (settle_null (hdispatch.trans (if_pos hbit))) rfl rfl
  · rw [if_neg (show ¬ s.inputs.legacyNullFallback = true from hbit)]
    exact settle_mono (n := 23) (by omega) (settle_fail (ownMove_dispatch rfl rfl (hdispatch.trans (if_neg hbit)))
      (by decide) nofun) rfl rfl

/-! ## PARSE -/

/-- DECONCEAL's outcome where CHECK admits its input (R131 to R134). -/
theorem deconcealOutcome_of_le {s : State} (hlen : s.inLen.toNat ≤ s.params.inBufSize) :
    deconcealOutcome s.inputs =
      if isPassthrough (splitFields s.input) = true then succeeded s.input .passthrough false
      else if (splitFields s.input).headD [] = ascii "suci" then
        if (splitFields s.input).length < 6 then failed .invalidFormat .none
        else suciOutcome s.inputs (suciOf (splitFields s.input))
      else failed .unknownPrefix .none := by
  simp only [isPassthrough_iff]
  exact if_neg (Nat.not_lt.2 hlen)

/-- From PARSE on (R130 to R138). -/
theorem settle_parsing {s : State} (hlen : s.inLen.toNat ≤ s.params.inBufSize) :
    settle 24 s.parsing = .next (s.parsing.complete (deconcealOutcome s.inputs)) := by
  have hfail {e : ResultCode} (he : e ≠ .ok) (h : stageParse s.parsing = s.parsing.raiseFail e) :
      settle 24 s.parsing = .next (s.parsing.complete (failed e .none)) :=
    settle_mono (by omega) (settle_fail (ownMove_parse rfl rfl h) he nofun) rfl rfl
  rw [deconcealOutcome_of_le hlen]
  by_cases hpass : isPassthrough (splitFields s.input) = true
  · rw [if_pos hpass]
    have hparse := stageParse_of_passthrough (s := s.parsing) hpass
    cases hvia : s.params.passthroughViaDispatch with
    | false =>
      have hmove := ownMove_parse rfl rfl (hparse.trans (if_neg (Bool.eq_false_iff.1 hvia)))
      have hend := settle_passthrough hmove rfl nofun rfl
      exact settle_mono (by omega) hend rfl rfl
    | true =>
      have hmove : ownMove s.parsing = .next s.dispatching := ownMove_parse rfl rfl (hparse.trans (if_pos hvia))
      have hbranch : stageDispatch s.dispatching = passthrough s.dispatching := if_pos hpass
      have hend := settle_passthrough (ownMove_dispatch rfl rfl hbranch) rfl nofun rfl
      rw [settle_succ 23 hmove]
      exact settle_mono (by omega) hend rfl rfl
  · rw [if_neg hpass]
    by_cases hsuci : (splitFields s.input).headD [] = ascii "suci"
    · have hparse := stageParse_of_suci (s := s.parsing) hsuci
      rw [if_pos hsuci]
      by_cases hfew : (splitFields s.input).length < 6
      · rw [if_pos hfew]
        exact hfail (by decide) (hparse.trans (if_pos hfew))
      · have hmove : ownMove s.parsing = .next s.dispatching := ownMove_parse rfl rfl (hparse.trans (if_neg hfew))
        rw [if_neg hfew, settle_succ 23 hmove]
        exact settle_dispatching (Bool.eq_false_iff.2 hpass)
    · rw [if_neg hsuci]
      exact hfail (by decide) (stageParse_of_unknownPrefix (s := s.parsing) (Bool.eq_false_iff.2 hpass) hsuci)

/-! ## AUX -/

/-- One of the three auxiliary commands that read IN stands in AUX, CHECK having admitted its input (R150, R220). -/
structure State.InAux (s : State) (i : Instr) : Prop where
  stage : s.stage = .aux
  port : s.port = .idle
  cmd : s.cmd = some i
  pending : s.scratch.pending = { code := .ok, out := [], kind := .aux, raw := false }
  inLen : s.inLen.toNat ≤ s.params.inBufSize

/-- A failure of an auxiliary command. -/
theorem State.InAux.settle_fail {s : State} {i : Instr} (h : s.InAux i) (hi : i ≠ .zeroize) (e : ResultCode)
    (he : e ≠ .ok) : settle 1 (s.raiseFail e) = .next (s.complete (failed e .aux)) := by
  have hend := settle_raiseFail he (h.cmd ▸ fun hz => hi (Option.some.inj hz))
  rwa [h.pending] at hend

/-- A result of an auxiliary command, under R217's output check. -/
theorem State.InAux.settle_emit {s : State} {i : Instr} (h : s.InAux i) (hi : i ≠ .zeroize) (out : Bytes) :
    settle 1 (s.emitChecked out) = .next (s.complete (sized s.inputs out .aux false)) := by
  have hend := settle_emitChecked out h.port (h.cmd ▸ fun hz => hi (Option.some.inj hz)) (by rw [h.pending])
  rwa [h.pending] at hend

/-- P256_DECOMPRESS (R230). -/
theorem settle_p256Decompress {s : State} (h : s.InAux .p256Decompress) :
    settle 1 (auxP256Decompress s) = .next (s.complete (p256DecompressOutcome s.inputs)) := by
  have houtcome : p256DecompressOutcome s.inputs =
      if s.input.length = 0 then failed .lengthError .aux
      else if ¬ (s.input.head? = some 0x02 ∨ s.input.head? = some 0x03) then failed .invalidPublicKeyEncoding .aux
      else if s.input.length ≠ 33 then failed .lengthError .aux
      else pointOutcome s.inputs P256.uncompressPoint (P256.recover s.input) :=
    if_neg (Nat.not_lt.2 h.inLen)
  have hfail := h.settle_fail (by decide)
  rw [houtcome, auxP256Decompress]
  generalize P256.recover s.input = pt
  cases s.input with
  | nil => exact hfail .lengthError (by decide)
  | cons b rest =>
    simp only [List.length_cons, Nat.add_one_ne_zero, List.head?_cons, Option.some.injEq, if_false, ite_not]
    split_ifs
    · cases pt with
      | none => exact hfail .keyAgreementFailed (by decide)
      | some pt => exact h.settle_emit (by decide) _
    · exact hfail .lengthError (by decide)
    · exact hfail .invalidPublicKeyEncoding (by decide)

/-- P256_COMPRESS (R235). -/
theorem settle_p256Compress {s : State} (h : s.InAux .p256Compress) :
    settle 1 (auxP256Compress s) = .next (s.complete (p256CompressOutcome s.inputs)) := by
  have houtcome : p256CompressOutcome s.inputs =
      if s.input.length = 0 then failed .lengthError .aux
      else if s.input.head? = some 0x04 then
        if s.input.length ≠ 65 then failed .lengthError .aux
        else pointOutcome s.inputs P256.compressPoint (P256.splitPoint s.input)
      else if s.input.head? = some 0x02 ∨ s.input.head? = some 0x03 then
        if s.input.length ≠ 33 then failed .lengthError .aux
        else pointOutcome s.inputs P256.compressPoint (P256.recover s.input)
      else failed .invalidPublicKeyEncoding .aux :=
    if_neg (Nat.not_lt.2 h.inLen)
  have hfail := h.settle_fail (by decide)
  rw [houtcome, auxP256Compress]
  generalize P256.recover s.input = recovered, P256.splitPoint s.input = point
  cases s.input with
  | nil => exact hfail .lengthError (by decide)
  | cons b rest =>
    simp only [List.length_cons, Nat.add_one_ne_zero, List.head?_cons, Option.some.injEq, if_false]
    split_ifs
    · exact hfail .lengthError (by decide)
    · cases point with
      | none => exact hfail .keyAgreementFailed (by decide)
      | some pt => exact h.settle_emit (by decide) _
    · exact hfail .lengthError (by decide)
    · cases recovered with
      | none => exact hfail .keyAgreementFailed (by decide)
      | some pt => exact h.settle_emit (by decide) _
    · exact hfail .invalidPublicKeyEncoding (by decide)

/-- TBCD_DECODE (R240). -/
theorem settle_tbcdDecode {s : State} (h : s.InAux .tbcdDecode) :
    settle 1 (auxTbcdDecode s) = .next (s.complete (tbcdDecodeOutcome s.inputs)) := by
  have houtcome : tbcdDecodeOutcome s.inputs = sized s.inputs (tbcdDigits s.input) .aux false :=
    if_neg (Nat.not_lt.2 h.inLen)
  rw [houtcome]
  exact h.settle_emit (by decide) _

/-! ## CHECK -/

/-- The block right after the CMD write that it accepts (R150). -/
def State.accepted (s : State) (i : Instr) : State := (s.accept i).respond (.write .okay)

/-- CHECK on one of the four commands that read IN (R150). -/
theorem stageCheck_of_checksLength {s : State} {i : Instr} (hcmd : s.cmd = some i) (hi : checksLength i = true) :
    stageCheck s =
      .next
        (if s.params.inBufSize < s.inLen.toNat then s.raiseFail .lengthError
         else s.gotoStage (stageAfterCheck i)) := by
  have hnot : ∀ o r, i ≠ .illegal o r := by
    rintro o r rfl
    exact absurd hi Bool.false_ne_true
  by_cases hlen : s.params.inBufSize < s.inLen.toNat
  · simp only [stageCheck, hcmd, hi, decide_eq_true hlen, Bool.and_self, if_true, if_pos hlen]
  · simp only [stageCheck, hcmd, decide_eq_false hlen, Bool.and_false, Bool.false_eq_true, if_false, if_neg hlen]

theorem ownMove_accepted {s t : State} {i : Instr} (h : stageCheck (s.accepted i) = .next t) :
    ownMove (s.accepted i) = .next t :=
  (ownMove_of_port_idle rfl).trans h

/-- CHECK fails an IN_LEN over IN_BUF_SIZE (R150). -/
theorem settle_oversized {s : State} {i : Instr} (hi : checksLength i = true)
    (hlen : s.params.inBufSize < s.inLen.toNat) :
    settle 2 (s.accepted i) = .next ((s.accepted i).complete (failed .lengthError (initialKind i))) := by
  have hcheck := stageCheck_of_checksLength (s := s.accepted i) rfl hi
  have hcmd : (s.accepted i).cmd ≠ some .zeroize := by
    intro hz
    obtain rfl : i = .zeroize := Option.some.inj hz
    exact absurd hi Bool.false_ne_true
  exact settle_fail (ownMove_accepted (hcheck.trans (congrArg _ (if_pos hlen)))) (by decide) hcmd

/-- An auxiliary command that reads IN, by its function in AUX (R150, R151). -/
theorem settle_auxCommand {s : State} {i : Instr} {f : State → State} (hi : checksLength i = true)
    (haux : stageAfterCheck i = .aux) (hkind : initialKind i = .aux) (hlen : s.inLen.toNat ≤ s.params.inBufSize)
    (hf : ∀ u : State, u.cmd = some i → stageAux u = .next (f u))
    (hend : ∀ u : State, u.InAux i → settle 1 (f u) = .next (u.complete (commandOutcome u.inputs i))) :
    settle 3 (s.accepted i) = .next ((s.accepted i).complete (commandOutcome s.inputs i)) := by
  have hcheck := (stageCheck_of_checksLength (s := s.accepted i) rfl hi).trans
    (congrArg _ (if_neg (Nat.not_lt.2 hlen)))
  have hin : ((s.accepted i).gotoStage .aux).InAux i := ⟨rfl, rfl, rfl, hkind ▸ rfl, hlen⟩
  have hmove := (ownMove_of_port_idle (s := (s.accepted i).gotoStage .aux) rfl).trans (hf _ rfl)
  rw [haux] at hcheck
  rw [settle_succ 2 (ownMove_accepted hcheck), settle_succ 1 hmove]
  exact hend _ hin

/-! ## The meaning of a command -/

/-- The way from the accept to the completion, within the moves of a `run`, is the meaning of the command (R116). -/
theorem exec_of_settle {s : State} {i : Instr} {n : Nat} (hb : s.busy = false) (hi : i ≠ .zeroize) (hn : n ≤ 25)
    (h : settle n (s.accepted i) = .next ((s.accepted i).complete (commandOutcome s.inputs i))) :
    exec i s = .next (s.afterCommand i) := by
  rw [exec_eq_runCommand, runCommand_of_idle i hb, State.afterCommand, if_neg hi]
  exact settle_mono hn h rfl rfl

/-- Where IN_LEN is over IN_BUF_SIZE, the pure outcome of each of the four commands is the failure of CHECK (R150). -/
theorem commandOutcome_oversized {s : State} {i : Instr} (hi : checksLength i = true)
    (hlen : s.params.inBufSize < s.inLen.toNat) :
    commandOutcome s.inputs i = failed .lengthError (initialKind i) := by
  cases i with
  | deconceal | p256Decompress | p256Compress | tbcdDecode => exact if_pos hlen
  | zeroize | illegal o r => exact absurd hi Bool.false_ne_true

/-- The four commands that read IN, on an IN_LEN that CHECK admits. -/
theorem settle_admitted {s : State} {i : Instr} (hi : checksLength i = true)
    (hlen : s.inLen.toNat ≤ s.params.inBufSize) :
    settle 25 (s.accepted i) = .next ((s.accepted i).complete (commandOutcome s.inputs i)) := by
  cases i with
  | deconceal => exact (settle_add 24 (settle_accept_deconceal hlen)).trans (settle_parsing hlen)
  | p256Decompress =>
    refine settle_mono (by omega) (settle_auxCommand rfl rfl rfl hlen (fun u hu => ?_) fun u => settle_p256Decompress)
      rfl rfl
    simp only [stageAux, hu]
  | p256Compress =>
    refine settle_mono (by omega) (settle_auxCommand rfl rfl rfl hlen (fun u hu => ?_) fun u => settle_p256Compress)
      rfl rfl
    simp only [stageAux, hu]
  | tbcdDecode =>
    refine settle_mono (by omega) (settle_auxCommand rfl rfl rfl hlen (fun u hu => ?_) fun u => settle_tbcdDecode)
      rfl rfl
    simp only [stageAux, hu]
  | zeroize | illegal o r => exact absurd hi Bool.false_ne_true

/-- ZEROIZE: CHECK, AUX and a completion that clears the storage (R245). -/
theorem exec_zeroize {s : State} (hb : s.busy = false) : exec .zeroize s = .next (s.afterCommand .zeroize) := by
  have hend : settle 3 (s.accepted .zeroize) =
      .next ((s.clearStorage.complete (succeeded [] .aux false)).respond (.write .okay)) := rfl
  rw [exec_eq_runCommand, runCommand_of_idle _ hb]
  exact settle_mono (by decide) hend rfl rfl

/-- ILLEGAL: CHECK fails it (R250). -/
theorem settle_illegal (s : State) (o : BitVec 8) (r : BitVec 24) :
    settle 2 (s.accepted (.illegal o r)) =
      .next ((s.accepted (.illegal o r)).complete (failed .illegalCommand .none)) :=
  settle_fail (s' := s.accepted (.illegal o r)) (ownMove_accepted rfl) (by decide) nofun

/-- Settles O6: a command ends in CHECK or, stage by stage, as its pure outcome says. -/
theorem execRefinesPureOutcome : Obligations.ExecRefinesPureOutcome := by
  intro i s hb
  cases hi : checksLength i with
  | true =>
    have hz : i ≠ .zeroize := by
      rintro rfl
      exact absurd hi Bool.false_ne_true
    obtain hlen | hlen := Nat.lt_or_ge s.params.inBufSize s.inLen.toNat
    · exact exec_of_settle hb hz (by omega) (commandOutcome_oversized hi hlen ▸ settle_oversized hi hlen)
    · exact exec_of_settle hb hz (by omega) (settle_admitted hi hlen)
  | false =>
    cases i with
    | zeroize => exact exec_zeroize hb
    | illegal o r => exact exec_of_settle hb nofun (by omega) (settle_illegal s o r)
    | deconceal | p256Decompress | p256Compress | tbcdDecode => exact absurd hi (by decide)

end Sys2Proof.Machine
end

section
/-! What the meaning of a command being its pure outcome says (R150): purity, the failures of CHECK and of the two
profiles, and the profiles' results. -/

namespace Sys2Proof.Machine

/-! ## Purity -/

/-- The result string that a completion shows depends on its outcome alone (R220). -/
theorem complete_output_congr (s t : State) (q : Pending) : (s.complete q).output = (t.complete q).output := by
  by_cases hok : q.code = .ok
  · refine List.map_congr_left fun i hi => ?_
    have hlen : i < q.out.length := by
      have hlt := List.mem_range.1 hi
      rw [State.complete_outLen, if_pos hok] at hlt
      exact hlt.trans_le (Nat.mod_le _ _)
    have hbyte (u : State) : (u.complete q).byteAt (0x800 + i) = q.out.getD i 0 := by
      rw [complete_byteAt_ok u hok, if_pos (by omega), Nat.add_sub_cancel_left]
    simp only [State.outByte, State.complete_outLen, Config.outBufBase, hbyte]
  · simp [State.output, hok]

/-- Settles O7: both commands end in the completion with the same pure outcome. -/
theorem outcomeDependsOnInputsAlone : Obligations.OutcomeDependsOnInputsAlone := by
  intro i s t ⟨_, hs⟩ ⟨_, ht⟩ hinputs
  refine ⟨_, _, execRefinesPureOutcome i s hs, execRefinesPureOutcome i t ht, ?_⟩
  unfold State.afterCommand
  rw [hinputs]
  exact ⟨rfl, rfl, rfl, rfl, complete_output_congr _ _ _⟩

/-! ## Ends as the host sees them -/

/-- A command but ZEROIZE completes with its pure outcome. -/
theorem exec_completed {s : State} {i : Instr} {q : Pending} (hs : s.ready) (hi : i ≠ .zeroize)
    (hq : commandOutcome s.inputs i = q) (hdone : Completed s ((s.complete q).respond (.write .okay)) q) :
    ∃ t, exec i s = .next t ∧ Completed s t q := by
  obtain ⟨-, hb⟩ := hs
  refine ⟨_, execRefinesPureOutcome i s hb, ?_⟩
  rwa [State.afterCommand, if_neg hi, hq]

/-- Settles O9: the pure outcome of each of the four commands begins with CHECK's test. -/
theorem oversizedInputCompletesWithLengthError : Obligations.OversizedInputCompletesWithLengthError := by
  intro s hs hlen
  have hend {i : Instr} (hi : checksLength i = true) (hz : i ≠ .zeroize) :
      ∃ t, exec i s = .next t ∧ Completed s t (failed .lengthError (initialKind i)) :=
    exec_completed hs hz (commandOutcome_oversized hi hlen) (completed_failed s (by decide) _)
  exact ⟨hend (i := .deconceal) rfl nofun, hend (i := .p256Decompress) rfl nofun,
    hend (i := .p256Compress) rfl nofun, hend (i := .tbcdDecode) rfl nofun⟩

/-! ## The profiles -/

/-- DECONCEAL's outcome for a SUCI of a profile (R136). -/
theorem commandOutcome_of_profile {s : State} {u : Suci} {q : Profile} (hu : s.holdsSuci u)
    (hscheme : u.protectionScheme = profileScheme q) :
    commandOutcome s.inputs .deconceal =
      plainOutcome s.inputs u (profileKind q) (profilePlaintext s.inputs q u.schemeOutput) := by
  obtain ⟨hlen, hhead, h6, rfl⟩ := hu
  have hpass := isPassthrough_of_suci hhead
  rw [← suciOutcome_of_profile _ hscheme]
  refine (deconcealOutcome_of_le hlen).trans ?_
  rw [if_neg (Bool.eq_false_iff.1 hpass), if_pos hhead, if_neg (Nat.not_lt.2 h6)]

/-- The result for a plaintext, or the failure in its place (R210 to R216). -/
def plainResult (u : Suci) (k : Kind) : Except ResultCode Bytes → Pending
  | .error e => failed e k
  | .ok plain =>
    if u.supiType = ascii "0" then succeeded (ascii "imsi-" ++ u.mcc ++ u.mnc ++ tbcdDigits plain) k false
    else succeeded (hexLower plain) k true

/-- R211 and R216 by the type of the SUPI. -/
theorem succeeded_assembled_eq (u : Suci) (k : Kind) (plain : Bytes) :
    succeeded (assembled u.supiType u.mcc u.mnc (decodeDigits u.supiType plain)) k (!isImsi u.supiType) =
      plainResult u k (.ok plain) := by
  unfold plainResult assembled decodeDigits
  by_cases h : isImsi u.supiType = true
  · simp only [h, if_true, if_pos ((isImsi_iff _).1 h), Bool.not_true]
  · simp only [Bool.eq_false_iff.2 h, Bool.false_eq_true, if_false, if_neg fun hi => h ((isImsi_iff _).2 hi),
      Bool.not_false]

/-- A SUCI of a profile ends in the result for its plaintext, which fits where the plaintext is at most half as long as
the scheme output, or in the failure in its place. -/
theorem exec_profile {s : State} {u : Suci} {q : Profile} {p : Except ResultCode Bytes} (hs : s.ready)
    (hu : s.holdsSuci u) (hscheme : u.protectionScheme = profileScheme q)
    (hp : profilePlaintext s.inputs q u.schemeOutput = p)
    (hcases : (∃ e, e ≠ .ok ∧ p = .error e) ∨
      ∃ plain : Bytes, 2 * plain.length ≤ u.schemeOutput.length ∧ p = .ok plain) :
    ∃ t, exec .deconceal s = .next t ∧ Completed s t (plainResult u (profileKind q) p) := by
  have houtcome := commandOutcome_of_profile hu hscheme
  rw [hp] at houtcome
  obtain ⟨e, he, rfl⟩ | ⟨plain, hhalf, rfl⟩ := hcases
  · exact exec_completed hs nofun houtcome (completed_failed s he _)
  · have hfits := assembled_fits hs hu ((decodeDigits_length_le u.supiType plain).trans hhalf)
    have hsized : plainOutcome s.inputs u (profileKind q) (.ok plain) =
        succeeded (assembled u.supiType u.mcc u.mnc (decodeDigits u.supiType plain)) (profileKind q)
          (!isImsi u.supiType) := sized_of_le _ _ hfits
    obtain ⟨hwf, -⟩ := id hs
    rw [← succeeded_assembled_eq]
    exact exec_completed hs nofun (houtcome.trans hsized) (completed_succeeded hwf hfits _ _)

/-- Settles O19: each failure is one of HEXDEC's and KEYLEN's, which the pure plaintext names. -/
theorem profileFormatFailures : Obligations.ProfileFormatFailures := by
  intro s u hs hu
  have hfail {q : Profile} {e : ResultCode} (hscheme : u.protectionScheme = profileScheme q)
      (hp : profilePlaintext s.inputs q u.schemeOutput = .error e) (he : e ≠ .ok) :
      ∃ t, exec .deconceal s = .next t ∧ Completed s t (failed e (profileKind q)) :=
    exec_profile hs hu hscheme hp (.inl ⟨e, he, rfl⟩)
  have hlayout {q : Profile} {e : ResultCode} {d : Bytes} (hscheme : u.protectionScheme = profileScheme q)
      (hd : hexDecode u.schemeOutput = some d) (hkey : keyLayout q d = .error e) (he : e ≠ .ok) :
      ∃ t, exec .deconceal s = .next t ∧ Completed s t (failed e (profileKind q)) :=
    hfail hscheme (profilePlaintext_of_layout_error _ hd hkey) he
  refine ⟨fun h1 hhex => ?hexA, fun h2 hhex => ?hexB, fun d h1 hd hshort => ?shortA, fun h2 hd => ?noBytes,
    fun b d h2 hd hb2 hb3 hb4 => ?form, fun b d h2 hd hshort => ?shortB⟩
  case hexA => exact hfail (q := .a) h1 (profilePlaintext_of_not_hex _ _ hhex) (by decide)
  case hexB => exact hfail (q := .b) h2 (profilePlaintext_of_not_hex _ _ hhex) (by decide)
  case shortA => exact hlayout (q := .a) h1 hd ((keyLayout_a d).trans (if_pos hshort)) (by decide)
  case noBytes => exact hlayout (q := .b) h2 hd keyLayout_b_nil (by decide)
  case form =>
    refine hlayout (q := .b) h2 hd ?_ (by decide)
    rw [keyLayout_b_cons, if_neg (not_or.2 ⟨hb2, hb3⟩), if_neg hb4]
  case shortB =>
    refine hlayout (q := .b) h2 hd ?_ (by decide)
    rw [keyLayout_b_cons]
    obtain ⟨hb, hlen⟩ | ⟨rfl, hlen⟩ := hshort
    · rw [if_pos hb, if_pos hlen]
    · rw [if_neg (by decide), if_pos rfl, if_pos hlen]

/-! ## The answers of the key-agreement engines -/

/-- An answer leads to a failure, or to a plaintext as long as the ciphertext (R202). -/
theorem answerPlaintext_cases (key ciphertext mac : Bytes) (a : Answer) :
    (∃ e, e ≠ .ok ∧ answerPlaintext key ciphertext mac a = .error e) ∨
      ∃ plain : Bytes, plain.length = ciphertext.length ∧ answerPlaintext key ciphertext mac a = .ok plain := by
  cases a with
  | fail => exact .inl ⟨.keyAgreementFailed, by decide, rfl⟩
  | ok z =>
    simp only [answerPlaintext, openCiphertext_eq]
    split
    · exact .inr ⟨_, ctr_length _ _ _, rfl⟩
    · exact .inl ⟨.macVerificationFailed, by decide, rfl⟩

/-- The result for an engine's secret: the MAC first, then the plaintext (R191 to R202). -/
theorem plainResult_open (u : Suci) (k : Kind) (z key ciphertext mac : Bytes) :
    plainResult u k (openCiphertext z key ciphertext mac) =
      if slice (Sha256.hmac (slice (Sha256.digest (z ++ be32 1 ++ key) ++ Sha256.digest (z ++ be32 2 ++ key)) 32 64)
          ciphertext) 0 8 ≠ mac then failed .macVerificationFailed k
      else
        plainResult u k
          (.ok (Aes128.ctr (slice (Sha256.digest (z ++ be32 1 ++ key) ++ Sha256.digest (z ++ be32 2 ++ key)) 0 16)
            (slice (Sha256.digest (z ++ be32 1 ++ key) ++ Sha256.digest (z ++ be32 2 ++ key)) 16 32) ciphertext)) := by
  rw [openCiphertext_eq, ite_not, apply_ite (plainResult u k)]
  rfl

/-- The plaintext of a split scheme output is at most half as long as the scheme output (R152, R155). -/
theorem answerPlaintext_half {t d : Bytes} (hd : hexDecode t = some d) (n : Nat) (key mac : Bytes) (a : Answer) :
    (∃ e, e ≠ .ok ∧ answerPlaintext key (slice d n (d.length - 8)) mac a = .error e) ∨
      ∃ plain : Bytes, 2 * plain.length ≤ t.length ∧
        answerPlaintext key (slice d n (d.length - 8)) mac a = .ok plain := by
  obtain hfail | ⟨plain, hlen, e⟩ := answerPlaintext_cases key (slice d n (d.length - 8)) mac a
  · exact .inl hfail
  · have hhex := hexDecode_length hd
    rw [slice_length] at hlen
    exact .inr ⟨plain, by omega, e⟩

/-- Settles O21: the answer of X25519, and what it leads to. -/
theorem profileAResult : Obligations.ProfileAResult := by
  intro s u d hs hu hscheme hd hlen hvalid eph ct mac
  have hplain : profilePlaintext s.inputs .a u.schemeOutput =
      answerPlaintext eph ct mac (answerX25519 s.slotA.key.toList eph) := by
    rw [profilePlaintext_of_layout _ hd ((keyLayout_a d).trans (if_neg (Nat.not_lt.2 hlen))), agreedPlaintext_a]
    exact if_pos hvalid
  obtain ⟨t, hexec, hdone⟩ :=
    exec_profile (q := .a) hs hu hscheme hplain (answerPlaintext_half hd 32 eph mac _)
  refine ⟨t, hexec, ?_⟩
  cases ha : answerX25519 s.slotA.key.toList eph with
  | fail => rwa [ha] at hdone
  | ok z =>
    rw [ha, answerPlaintext, plainResult_open] at hdone
    exact hdone

/-- Settles O22: the point of the key, the answer of P-256, and what it leads to. -/
theorem profileBResult : Obligations.ProfileBResult := by
  intro s u b d n hs hu hscheme hd hn hlen hvalid eph ct mac
  obtain ⟨form, hlayout, hpoint⟩ : ∃ form, keyLayout .b (b :: d) = .ok (n, some form) ∧
      pointOf form eph =
        if n = 33 then P256.recover eph
        else if P256.onCurve (os2ip (slice eph 1 33)) (os2ip (slice eph 33 65)) then
          some (os2ip (slice eph 1 33), os2ip (slice eph 33 65))
        else none := by
    rw [keyLayout_b_cons]
    obtain ⟨hb, rfl⟩ | ⟨rfl, rfl⟩ := hn
    · exact ⟨.compressed, by rw [if_pos hb, if_neg (Nat.not_lt.2 hlen)], rfl⟩
    · exact ⟨.uncompressed, by rw [if_neg (by decide), if_pos rfl, if_neg (Nat.not_lt.2 hlen)], rfl⟩
  have hplain := (profilePlaintext_of_layout s.inputs hd hlayout).trans (agreedPlaintext_b _ form eph ct mac)
  rw [if_pos (show s.inputs.slotB.valid = true from hvalid)] at hplain
  rw [← hpoint]
  cases hpt : pointOf form eph with
  | none =>
    rw [hpt] at hplain
    exact exec_profile (q := .b) hs hu hscheme hplain (.inl ⟨_, by decide, rfl⟩)
  | some pt =>
    obtain ⟨x, y⟩ := pt
    rw [hpt] at hplain
    have hplain : profilePlaintext s.inputs .b u.schemeOutput =
        answerPlaintext (P256.compressPoint (x, y)) ct mac (answerP256SmulX s.slotB.key.toList x y) := hplain
    obtain ⟨t, hexec, hdone⟩ :=
      exec_profile (q := .b) hs hu hscheme hplain (answerPlaintext_half hd n (P256.compressPoint (x, y)) mac _)
    refine ⟨t, hexec, ?_⟩
    simp only
    cases ha : answerP256SmulX s.slotB.key.toList x y with
    | fail => rwa [ha] at hdone
    | ok z =>
      rw [ha, answerPlaintext, plainResult_open] at hdone
      exact hdone

end Sys2Proof.Machine
end

section
/-! Small steps and whole commands (R151, R264): the block's own moves make a run, and a schedule of moves, answers and
reads makes no other move than these, whatever the agenda and the last response are. -/

namespace Sys2Proof.Machine

/-! ## Own moves -/

/-- The CMD write that an idle block accepts, as a step (R150). -/
theorem step_acceptedWrite {s : State} {v : Word} {es : List Event} (hb : s.busy = false)
    (hag : s.agenda = .write (s.params.baseAddr + 0x00C) 4 v :: es) :
    step s = .next ((s.setAgenda es).accepted (decodeWord v)) := by
  have hwrite := busWrite_word (s := s.setAgenda es) (off := 0x00C) v .cmd rfl (by decide) rfl
  rw [State.writeRegister, unlessBusy_of_idle (s := s.setAgenda es) _ hb] at hwrite
  exact (step_of_agenda_cons hag).trans hwrite

/-- No move of the sequencer touches the agenda. -/
theorem sequencerMove_agenda {s s' : State} (h : sequencerMove s = .next s') : s'.agenda = s.agenda := by
  by_cases hc : s.stage = .commit
  · rw [sequencerMove_commit hc, Host.Outcome.next.injEq] at h
    subst h
    unfold stageCommit
    split <;> rfl
  · rw [sequencerMove_frame h hc]

theorem ownMove_agenda {s s' : State} (h : ownMove s = .next s') : s'.agenda = s.agenda := by
  obtain ⟨r, -, e⟩ | ⟨-, e⟩ := ownMove_cases s <;> rw [e] at h
  · exact Host.Outcome.next.inj h ▸ rfl
  · exact sequencerMove_agenda h

/-- The first of some moves that go on. -/
theorem settle_succ_next {n : Nat} {s t : State} (h : settle (n + 1) s = .next t) :
    ∃ u, ownMove s = .next u ∧ settle n u = .next t := by
  cases hmove : ownMove s with
  | next u => exact ⟨u, rfl, (settle_succ n hmove).symm.trans h⟩
  | fault f => simp [settle, hmove] at h
  | refused r => simp [settle, hmove] at h

/-- The first of some steps that go on. -/
theorem run_succ_next {n : Nat} {s t : State} (h : Sys2Proof.core.run (n + 1) s = .next t) :
    ∃ u, step s = .next u ∧ Sys2Proof.core.run n u = .next t := by
  have hcore : Sys2Proof.core.step s = step s := rfl
  cases hstep : step s with
  | next u => exact ⟨u, rfl, (run_succ_of_next n hstep).symm.trans h⟩
  | fault f => simp [Host.Core.run, hcore, hstep] at h
  | refused r => simp [Host.Core.run, hcore, hstep] at h

/-- With nothing due from outside, steps are own moves. -/
theorem run_eq_settle {n : Nat} {s t : State} (hag : s.agenda = []) (h : settle n s = .next t) :
    Sys2Proof.core.run n s = .next t := by
  induction n generalizing s with
  | zero => exact h
  | succ n ih =>
    obtain ⟨u, hmove, hrest⟩ := settle_succ_next h
    rw [run_succ_of_next n ((step_of_agenda_nil hag).trans hmove)]
    exact ih ((ownMove_agenda hmove).trans hag) hrest

/-- The state a command leaves is idle, shows a completed command, and keeps the agenda (R220). -/
theorem afterCommand_completed (s : State) (i : Instr) :
    (s.afterCommand i).busy = false ∧ (s.afterCommand i).status.done = true ∧
      (s.afterCommand i).agenda = s.agenda := by
  unfold State.afterCommand
  split <;> exact ⟨rfl, rfl, rfl⟩

/-- Settles O51: the first step is the accept, and the other 25 are the moves of a `run`. -/
theorem ownMovesCompleteTheCommand : Obligations.OwnMovesCompleteTheCommand := by
  intro s v hb hag
  have hexec := execRefinesPureOutcome (decodeWord v) (s.setAgenda []) hb
  have hsettle := hexec
  rw [exec_eq_runCommand, runCommand_of_idle (s := s.setAgenda []) _ hb] at hsettle
  obtain ⟨hidle, hdone, -⟩ := afterCommand_completed (s.setAgenda []) (decodeWord v)
  refine ⟨_, ?_, hexec, hidle, hdone⟩
  rw [run_succ_of_next 25 (step_acceptedWrite hb hag)]
  exact run_eq_settle rfl hsettle

/-! ## The block alone -/

/-- The block without what is outside it: no events to come, and no response on the bus (log 1, log 19). -/
def State.alone (s : State) : State := { s with agenda := [], response := none }

@[simp] theorem alone_params (s : State) : s.alone.params = s.params := rfl
@[simp] theorem alone_inLen (s : State) : s.alone.inLen = s.inLen := rfl
@[simp] theorem alone_input (s : State) : s.alone.input = s.input := rfl
@[simp] theorem alone_stage (s : State) : s.alone.stage = s.stage := rfl
@[simp] theorem alone_cmd (s : State) : s.alone.cmd = s.cmd := rfl
@[simp] theorem alone_scratch (s : State) : s.alone.scratch = s.scratch := rfl
@[simp] theorem alone_port (s : State) : s.alone.port = s.port := rfl

/-- What is left of a move's result when the outside is left out. -/
def aloneResult : Result → Result
  | .next s => .next s.alone
  | .fault f => .fault f
  | .refused r => .refused r

theorem emitChecked_alone (s : State) (out : Bytes) : s.alone.emitChecked out = (s.emitChecked out).alone := by
  unfold State.emitChecked
  rw [alone_params, apply_ite State.alone]
  rfl

theorem stageCheck_alone (s : State) : stageCheck s.alone = aloneResult (stageCheck s) := by
  simp only [stageCheck, alone_cmd, alone_params, alone_inLen]
  split
  · rfl
  · rfl
  · rw [apply_ite aloneResult]
    rfl

theorem stageParse_alone (s : State) : stageParse s.alone = (stageParse s).alone := by
  simp only [stageParse, apply_ite State.alone]
  rfl

theorem stageDispatch_alone (s : State) : stageDispatch s.alone = (stageDispatch s).alone := by
  simp only [stageDispatch, apply_ite State.alone]
  rfl

theorem stageHexdec_alone (s : State) : stageHexdec s.alone = (stageHexdec s).alone := by
  simp only [stageHexdec, alone_scratch]
  split <;> rfl

theorem checkTotalLength_alone (s : State) (n : Nat) (form : Option KeyForm) :
    checkTotalLength s.alone n form = (checkTotalLength s n form).alone := by
  unfold checkTotalLength
  rw [apply_ite State.alone]
  rfl

theorem keyLengthB_alone (s : State) : keyLengthB s.alone = (keyLengthB s).alone := by
  simp only [keyLengthB, alone_scratch, checkTotalLength_alone]
  split
  · rfl
  · simp only [apply_ite State.alone]
    rfl

theorem stageKeylen_alone (s : State) : stageKeylen s.alone = aloneResult (stageKeylen s) := by
  simp only [stageKeylen, alone_scratch, checkTotalLength_alone, keyLengthB_alone]
  split <;> rfl

theorem agreeA_alone (s : State) : agreeA s.alone = (agreeA s).alone := by
  unfold agreeA
  rw [apply_ite State.alone]
  rfl

theorem agreeB_alone (s : State) (form : KeyForm) : agreeB s.alone form = (agreeB s form).alone := by
  simp only [agreeB, alone_scratch]
  generalize pointOf form s.scratch.ephemeralKey = pt
  cases pt <;> rw [apply_ite State.alone] <;> rfl

theorem stageKeyagree_alone (s : State) : stageKeyagree s.alone = aloneResult (stageKeyagree s) := by
  simp only [stageKeyagree, beginAgreement, alone_port, alone_scratch, agreeA_alone, agreeB_alone]
  split
  · split <;> rfl
  · rfl
  · next a _ => cases a <;> rfl

theorem kdfAdvance_alone (s : State) : kdfAdvance s.alone = (kdfAdvance s).alone := by
  unfold kdfAdvance
  rw [apply_ite State.alone]
  rfl

theorem stageKdf_alone (s : State) : stageKdf s.alone = aloneResult (stageKdf s) := by
  simp only [stageKdf, alone_port, kdfAdvance_alone]
  split
  · rfl
  · rfl
  · next a _ => cases a <;> rfl

theorem stageMac_alone (s : State) : stageMac s.alone = aloneResult (stageMac s) := by
  simp only [stageMac, alone_port, alone_scratch]
  split
  · rfl
  · rfl
  · next a _ =>
    cases a with
    | fail => rfl
    | ok tag =>
      rw [takeTag_ok, takeTag_ok, apply_ite aloneResult]
      rfl

theorem stageDecrypt_alone (s : State) : stageDecrypt s.alone = aloneResult (stageDecrypt s) := by
  simp only [stageDecrypt, alone_port, alone_scratch]
  split
  · rfl
  · rfl
  · next a _ => cases a <;> rfl

theorem stageAssemble_alone (s : State) : stageAssemble s.alone = (stageAssemble s).alone :=
  emitChecked_alone (s.setScratch _) _

theorem stageCommit_alone (s : State) : stageCommit s.alone = (stageCommit s).alone := by
  unfold stageCommit
  rw [apply_ite State.alone]
  rfl

theorem auxP256Decompress_alone (s : State) : auxP256Decompress s.alone = (auxP256Decompress s).alone := by
  simp only [auxP256Decompress, alone_input, emitChecked_alone]
  generalize P256.recover s.input = pt
  split
  · rfl
  · split_ifs
    · rfl
    · cases pt <;> rfl
    · rfl

theorem auxP256Compress_alone (s : State) : auxP256Compress s.alone = (auxP256Compress s).alone := by
  simp only [auxP256Compress, alone_input, emitChecked_alone]
  generalize P256.recover s.input = recovered, P256.splitPoint s.input = point
  split
  · rfl
  · split_ifs
    · rfl
    · cases point <;> rfl
    · rfl
    · cases recovered <;> rfl
    · rfl

theorem stageAux_alone (s : State) : stageAux s.alone = aloneResult (stageAux s) := by
  simp only [stageAux, auxTbcdDecode, alone_cmd, alone_input, auxP256Decompress_alone, auxP256Compress_alone,
    emitChecked_alone]
  split <;> rfl

/-- The sequencer's move does not depend on the agenda and the last response, and leaves both alone. -/
theorem sequencerMove_alone (s : State) : sequencerMove s.alone = aloneResult (sequencerMove s) := by
  simp only [sequencerMove, alone_stage, stageCheck_alone, stageParse_alone, stageDispatch_alone, stageHexdec_alone,
    stageKeylen_alone, stageKeyagree_alone, stageKdf_alone, stageMac_alone, stageDecrypt_alone, stageAssemble_alone,
    stageCommit_alone, stageAux_alone]
  split <;> rfl

theorem ownMove_alone (s : State) : ownMove s.alone = aloneResult (ownMove s) := by
  simp only [ownMove, engineMove, alone_port, sequencerMove_alone]
  split <;> rfl

theorem settle_alone {n : Nat} {s t : State} (h : settle n s = .next t) : settle n s.alone = .next t.alone := by
  induction n generalizing s with
  | zero =>
    rw [settle_zero, Host.Outcome.next.injEq] at h
    exact h ▸ settle_zero s.alone
  | succ n ih =>
    obtain ⟨u, hmove, hrest⟩ := settle_succ_next h
    have halone := ownMove_alone s
    rw [hmove] at halone
    exact (settle_succ n halone).trans (ih hrest)

/-! ## Schedules -/

/-- A move of the sequencer is an own move, but where it waits for an engine (R14). -/
theorem sequencerMove_eq_ownMove {s t : State} (hs : s.SequencerInv) (h : sequencerMove s = .next t) :
    t = s ∨ ownMove s = .next t := by
  cases hport : s.port with
  | idle => exact .inr ((ownMove_of_port_idle hport).trans h)
  | answered a => exact .inr ((ownMove_of_answered hport).trans h)
  | requested r =>
    obtain ⟨-, hfits, -⟩ := hs
    rw [hport] at hfits
    refine .inl ?_
    cases r <;> simp only [portFits] at hfits <;>
      simp only [sequencerMove, hfits, stageKeyagree, stageKdf, stageMac, stageDecrypt, hport,
        Host.Outcome.next.injEq] at h <;>
      exact h.symm

/-- A quiet event waits, or is an own move of the block, the outside left out (R264). -/
theorem happen_quiet {s t : State} {e : Event} (hs : s.SequencerInv) (hquiet : quietEvent s.params e)
    (h : happen e s = .next t) :
    t.agenda = s.agenda ∧ t.params = s.params ∧ ∃ n, settle n s.alone = .next t.alone := by
  have hmove (hown : ownMove s = .next t) : settle 1 s.alone = .next t.alone := settle_alone (settle_succ 0 hown)
  cases e with
  | read addr width =>
    obtain ⟨off, r, -, rfl⟩ := busRead_cases h
    exact ⟨rfl, rfl, 0, rfl⟩
  | sequencerMove =>
    refine ⟨sequencerMove_agenda h, sequencerMove_params h, ?_⟩
    obtain rfl | hown := sequencerMove_eq_ownMove hs h
    · exact ⟨0, rfl⟩
    · exact ⟨1, hmove hown⟩
  | engineMove =>
    obtain rfl := Host.Outcome.next.inj h
    obtain ⟨r, hr, e⟩ | ⟨-, e⟩ := engineMove_cases s <;> rw [e] at hmove ⊢
    · exact ⟨rfl, rfl, 1, hmove (ownMove_of_requested hr)⟩
    · exact ⟨rfl, rfl, 0, rfl⟩
  | write addr width v | run v | lateAnswer | reset => exact hquiet.elim

/-- A schedule of quiet events is some number of own moves (R264). -/
theorem run_quiet {es : List Event} {s t : State} (hs : s.SequencerInv) (hag : s.agenda = es)
    (hquiet : ∀ e ∈ es, quietEvent s.params e) (h : Sys2Proof.core.run es.length s = .next t) :
    t.agenda = [] ∧ t.SequencerInv ∧ ∃ n, settle n s.alone = .next t.alone := by
  induction es generalizing s with
  | nil =>
    obtain rfl := Host.Outcome.next.inj h
    exact ⟨hag, hs, 0, rfl⟩
  | cons e rest ih =>
    obtain ⟨u, hstep, hrun⟩ := run_succ_next h
    have hhappen := (step_of_agenda_cons hag).symm.trans hstep
    obtain ⟨hagenda, hparams, m, hm⟩ :=
      happen_quiet (s := s.setAgenda rest) hs (hquiet e List.mem_cons_self) hhappen
    have hrest : ∀ e' ∈ rest, quietEvent u.params e' := by
      rw [hparams]
      exact fun e' he' => hquiet e' (List.mem_cons_of_mem e he')
    obtain ⟨hdone, ht, n, hn⟩ := ih (sequencerInvariantIsKept s u hs hstep) hagenda hrest hrun
    exact ⟨hdone, ht, m + n, (settle_add n hm).trans hn⟩

/-- Two runs of own moves that both reach IDLE reach the same state. -/
theorem settle_idle_unique {m n : Nat} {s t u : State} (ht : settle m s = .next t) (hu : settle n s = .next u)
    (hti : t.stage = .idle) (htp : t.port = .idle) (hui : u.stage = .idle) (hup : u.port = .idle) : t = u := by
  have hmax := settle_mono (Nat.le_max_left m n) ht hti htp
  exact Host.Outcome.next.inj (hmax.symm.trans (settle_mono (Nat.le_max_right m n) hu hui hup))

/-- States that differ outside the block alone, and have the same agenda, differ in the response alone. -/
theorem eq_of_alone_eq {s t : State} (h : s.alone = t.alone) (hag : s.agenda = t.agenda) :
    s = { t with response := s.response } :=
  calc s = { s.alone with agenda := s.agenda, response := s.response } := rfl
    _ = { t with response := s.response } := by rw [h, hag]; rfl

/-- Settles O52: both the schedule and the `run` are own moves of the block alone from the same accept, to IDLE. -/
theorem everyScheduleGivesTheSameResult : Obligations.EveryScheduleGivesTheSameResult := by
  intro s t v es hb hag hquiet hrun hidle
  rw [run_succ_of_next _ (step_acceptedWrite hb hag)] at hrun
  have haccept : ((s.setAgenda es).accepted (decodeWord v)).SequencerInv :=
    accept_sequencerInv (s.setAgenda es) _
  obtain ⟨hdone, ht, n, hn⟩ := run_quiet haccept rfl hquiet hrun
  obtain ⟨u, hu, hui, hup⟩ := runCommand_idle (s := s.setAgenda []) (decodeWord v) hb
  have hexec := (exec_eq_runCommand (decodeWord v) (s.setAgenda [])).trans hu
  have hafter := execRefinesPureOutcome (decodeWord v) (s.setAgenda []) hb
  have hagenda : u.agenda = [] := by
    obtain rfl := Host.Outcome.next.inj (hexec.symm.trans hafter)
    obtain ⟨-, -, hkeep⟩ := afterCommand_completed (s.setAgenda []) (decodeWord v)
    exact hkeep
  rw [runCommand_of_idle (s := s.setAgenda []) _ hb] at hu
  have htidle := (busy_eq_false_iff t).1 hidle
  have hsame : u.alone = t.alone :=
    settle_idle_unique (settle_alone hu) hn hui hup htidle (port_idle_of_stage_idle ht htidle)
  exact ⟨u, hexec, eq_of_alone_eq hsame (hagenda.trans hdone.symm)⟩

end Sys2Proof.Machine
end

section
/-! The point encodings of key agreement (R12, R109, R170 to R181): numbers as byte strings, the recovered point, the
two forms of one point, and the slot's check before either is looked at. -/

namespace Sys2Proof.Machine

/-! ## Numbers as byte strings -/

theorem os2ip_append_singleton (b : Bytes) (x : Byte) : os2ip (b ++ [x]) = 256 * os2ip b + x.toNat := by
  simp [os2ip]

/-- `I2OSP` at the string's own length undoes `OS2IP` (R12). -/
theorem i2osp_os2ip (b : Bytes) : i2osp (os2ip b) b.length = b := by
  induction b using List.reverseRecOn with
  | nil => rfl
  | append_singleton b x ih =>
    have hx : x.toNat < 256 := x.isLt
    have hhigh : (256 * os2ip b + x.toNat) / 256 = os2ip b := by omega
    have hlow : BitVec.ofNat 8 (256 * os2ip b + x.toNat) = x := BitVec.eq_of_toNat_eq (by simp; omega)
    rw [os2ip_append_singleton, List.length_append, List.length_singleton, i2osp, hhigh, hlow, ih]

/-- `OS2IP` undoes `I2OSP` of a number that its length has room for (R12). -/
theorem os2ip_i2osp {x k : Nat} (h : x < 256 ^ k) : os2ip (i2osp x k) = x := by
  induction k generalizing x with
  | zero =>
    obtain rfl : x = 0 := by simpa using h
    rfl
  | succ k ih =>
    rw [i2osp, os2ip_append_singleton, ih (Nat.div_lt_of_lt_mul (by rwa [mul_comm, ← pow_succ])), BitVec.toNat_ofNat]
    omega

namespace P256

/-! ## The curve -/

/-- R172, on integers. -/
theorem curveRhs_cast (x : Nat) : (curveRhs x : Int) = ((x : Int) * x * x - 3 * x + b) % (p : Int) :=
  Int.toNat_of_nonneg (Int.emod_nonneg _ (by decide))

theorem onCurve_iff (x y : Nat) : onCurve x y = true ↔ x < p ∧ y < p ∧ y * y % p = curveRhs x := by
  simp [onCurve, and_assoc]

/-- The negative of a root is a root (R176). -/
theorem neg_root_sq {y : Nat} (h : y ≤ p) : (p - y) * (p - y) % p = y * y % p := by
  obtain ⟨z, hz⟩ := Nat.exists_eq_add_of_le h
  have hneg : (p - y) * (p - y) + y * p = y * y + (p - y) * p := by
    rw [show p - y = z by omega, hz]
    ring
  rw [← Nat.add_mul_mod_self_right _ y p, hneg, Nat.add_mul_mod_self_right]

/-! ## Recovery -/

theorem compressed_x {key : Bytes} (hlen : key.length = 33) : slice key 1 33 = key.drop 1 :=
  List.take_of_length_le (by simp [hlen])

/-- R174 to R176 for the candidate root `t`. -/
theorem recover_eq {key : Bytes} {t : Nat} (hlen : key.length = 33)
    (ht : t = curveRhs (os2ip (key.drop 1)) ^ ((p + 1) / 4) % p) :
    recover key =
      if p ≤ os2ip (key.drop 1) ∨ t * t % p ≠ curveRhs (os2ip (key.drop 1)) then none
      else if t % 2 = (key.headD 0).toNat - 2 then some (os2ip (key.drop 1), t)
      else if t = 0 then none
      else some (os2ip (key.drop 1), p - t) := by
  simp only [recover, compressed_x hlen, sqrtModP_eq ht]
  by_cases hx : p ≤ os2ip (key.drop 1)
  · simp only [hx, true_or, if_true]
  · by_cases hroot : t * t % p = curveRhs (os2ip (key.drop 1))
    · simp only [hx, hroot, ne_eq, not_true, or_self, if_true, if_false]
    · simp only [hx, hroot, ne_eq, not_false_iff, or_true, if_true, if_false]

/-- Where recovery fails (R174 to R176). -/
theorem recover_eq_none_iff {key : Bytes} {t : Nat} (hlen : key.length = 33)
    (hform : key.headD 0 = 0x02 ∨ key.headD 0 = 0x03)
    (ht : t = curveRhs (os2ip (key.drop 1)) ^ ((p + 1) / 4) % p) :
    recover key = none ↔
      p ≤ os2ip (key.drop 1) ∨ t * t % p ≠ curveRhs (os2ip (key.drop 1)) ∨ (t = 0 ∧ key.headD 0 = 0x03) := by
  have hodd : t = 0 ∧ key.headD 0 = 0x03 ↔ t % 2 ≠ (key.headD 0).toNat - 2 ∧ t = 0 := by
    obtain hb | hb := hform <;> · rw [hb]; simp; omega
  rw [recover_eq hlen ht, hodd, ← or_assoc]
  clear ht
  split_ifs with hfail heven hzero
  · exact iff_of_true rfl (.inl hfail)
  · exact iff_of_false nofun (not_or.2 ⟨hfail, fun h => h.1 heven⟩)
  · exact iff_of_true rfl (.inr ⟨heven, hzero⟩)
  · exact iff_of_false nofun (not_or.2 ⟨hfail, fun h => hzero h.2⟩)

/-- A recovered point lies on the curve and has the x and the parity of its key (R172, R174, R176). -/
theorem recover_some {key : Bytes} {x y : Nat} (hlen : key.length = 33)
    (hform : key.headD 0 = 0x02 ∨ key.headD 0 = 0x03) (h : recover key = some (x, y)) :
    onCurve x y = true ∧ x = os2ip (key.drop 1) ∧ y % 2 = (key.headD 0).toNat - 2 := by
  obtain ⟨t, ht⟩ : ∃ t, t = curveRhs (os2ip (key.drop 1)) ^ ((p + 1) / 4) % p := ⟨_, rfl⟩
  have htp : t < p := ht ▸ Nat.mod_lt _ (by decide)
  have hpodd : p % 2 = 1 := by decide
  have hparity : (key.headD 0).toNat = 2 ∨ (key.headD 0).toNat = 3 :=
    hform.imp (congrArg BitVec.toNat) (congrArg BitVec.toNat)
  rw [recover_eq hlen ht] at h
  clear ht
  split_ifs at h with hfail heven hzero
  all_goals
    obtain ⟨rfl, rfl⟩ := Prod.mk.inj (Option.some.inj h)
    obtain ⟨hx, hroot⟩ := not_or.1 hfail
    rw [onCurve_iff]
  · exact ⟨⟨by omega, htp, not_not.1 hroot⟩, rfl, heven⟩
  · exact ⟨⟨by omega, by omega, (neg_root_sq htp.le).trans (not_not.1 hroot)⟩, rfl, by omega⟩

/-! ## Encodings -/

/-- Compressing gives back every key that has the point's x and parity (R178, R179). -/
theorem compressPoint_eq_key {key : Bytes} {y : Nat} (hlen : key.length = 33)
    (hform : key.headD 0 = 0x02 ∨ key.headD 0 = 0x03) (hy : y % 2 = (key.headD 0).toNat - 2) :
    compressPoint (os2ip (key.drop 1), y) = key := by
  obtain _ | ⟨b, x⟩ := key
  · exact absurd hlen (by decide)
  · have hx : x.length = 32 := Nat.succ.inj hlen
    have hhead : BitVec.ofNat 8 (2 + y % 2) = b := by
      obtain hb | hb := hform <;> · rw [hy, hb]; exact hb.symm
    have hbytes : i2osp (os2ip x) 32 = x := hx ▸ i2osp_os2ip x
    exact congrArg₂ List.cons hhead hbytes

/-- Recompressing a recovered point gives its key back (R179). -/
theorem compressPoint_of_recover {key : Bytes} {pt : Nat × Nat} (hlen : key.length = 33)
    (hform : key.headD 0 = 0x02 ∨ key.headD 0 = 0x03) (h : recover key = some pt) : compressPoint pt = key := by
  obtain ⟨x, y⟩ := pt
  obtain ⟨-, rfl, hy⟩ := recover_some hlen hform h
  exact compressPoint_eq_key hlen hform hy

/-- The uncompressed encoding of a point on the curve splits into the point (R109, R177). -/
theorem splitPoint_uncompressPoint {x y : Nat} (h : onCurve x y = true) :
    splitPoint (uncompressPoint (x, y)) = some (x, y) := by
  obtain ⟨hx, hy, -⟩ := (onCurve_iff x y).1 h
  have hp : p < 256 ^ 32 := by decide
  have hsliceX : slice (uncompressPoint (x, y)) 1 33 = i2osp x 32 := by
    rw [slice, uncompressPoint, List.drop_one, List.tail_cons, List.take_left' (i2osp_length x 32)]
  have hsliceY : slice (uncompressPoint (x, y)) 33 65 = i2osp y 32 := by
    rw [slice, uncompressPoint, List.drop_succ_cons, List.drop_left' (i2osp_length x 32),
      List.take_of_length_le (i2osp_length y 32).le]
  simp only [splitPoint, hsliceX, hsliceY, os2ip_i2osp (hx.trans hp), os2ip_i2osp (hy.trans hp), h, if_true]

/-- So does that of a recovered point (R174, R177). -/
theorem splitPoint_of_recover {key : Bytes} {pt : Nat × Nat} (hlen : key.length = 33)
    (hform : key.headD 0 = 0x02 ∨ key.headD 0 = 0x03) (h : recover key = some pt) :
    splitPoint (uncompressPoint pt) = some pt := by
  obtain ⟨x, y⟩ := pt
  obtain ⟨hcurve, -, -⟩ := recover_some hlen hform h
  exact splitPoint_uncompressPoint hcurve

end P256

/-! ## Key agreement -/

/-- Settles O58: the cases of recovery for the candidate root of R175. -/
theorem recoveredPointMatchesItsKey : Obligations.RecoveredPointMatchesItsKey := by
  refine ⟨rfl, P256.curveRhs_cast, fun x y => ?onCurve, fun key hlen hform => ?fails,
    fun key x y hlen hform h => ?recovered⟩
  case onCurve =>
    rw [P256.onCurve_iff, ← Int.ofNat_inj, P256.curveRhs_cast]
    rfl
  case fails => exact P256.recover_eq_none_iff hlen hform rfl
  case recovered =>
    obtain ⟨hcurve, hx, hy⟩ := P256.recover_some hlen hform h
    exact ⟨hcurve, hx, hy, P256.compressPoint_of_recover hlen hform h⟩

/-- Key agreement for Profile B depends on the point and not on its encoding (R178, R180). -/
theorem agree_b_congr (c : Inputs) {form form' : KeyForm} {key key' : Bytes}
    (h : pointOf form key = pointOf form' key') : agree c .b (some form) key = agree c .b (some form') key' := by
  simp only [agree, Option.getD_some, h]

/-- Settles O59: both encodings have the same point. -/
theorem bothPointFormsAgree : Obligations.BothPointFormsAgree := by
  intro c key pt hlen hform hpt
  have hsplit := P256.splitPoint_of_recover hlen hform hpt
  exact ⟨hsplit, agree_b_congr c (hsplit.trans hpt.symm)⟩

/-- Settles O20: the layout is well-formed, and key agreement begins with the slot's check. -/
theorem missingKeyFails : Obligations.MissingKeyFails := by
  intro s u hs hu
  have hfail {q : Profile} {d : Bytes} {n : Nat} {form : Option KeyForm}
      (hscheme : u.protectionScheme = profileScheme q) (hd : hexDecode u.schemeOutput = some d)
      (hlayout : keyLayout q d = .ok (n, form))
      (hagree : ∀ eph ct mac, agreedPlaintext s.inputs q form eph ct mac = .error .keyNotLoaded) :
      ∃ t, exec .deconceal s = .next t ∧ Completed s t (failed .keyNotLoaded (profileKind q)) :=
    exec_profile hs hu hscheme ((profilePlaintext_of_layout _ hd hlayout).trans (hagree _ _ _))
      (.inl ⟨_, by decide, rfl⟩)
  refine ⟨fun d h1 hd hlen hinvalid => ?profileA, fun b d h2 hd hlong hinvalid => ?profileB⟩
  case profileA =>
    have hslot : ¬ s.inputs.slotA.valid = true := Bool.eq_false_iff.1 hinvalid
    exact hfail (q := .a) h1 hd ((keyLayout_a d).trans (if_neg (Nat.not_lt.2 hlen))) fun eph ct mac =>
      (agreedPlaintext_a _ _ eph ct mac).trans (if_neg hslot)
  case profileB =>
    have hslot : ¬ s.inputs.slotB.valid = true := Bool.eq_false_iff.1 hinvalid
    obtain ⟨n, form, hlayout⟩ : ∃ n form, keyLayout .b (b :: d) = .ok (n, some form) := by
      rw [keyLayout_b_cons]
      obtain ⟨hb, hlen⟩ | ⟨rfl, hlen⟩ := hlong
      · exact ⟨33, .compressed, by rw [if_pos hb, if_neg (Nat.not_lt.2 hlen)]⟩
      · exact ⟨65, .uncompressed, by rw [if_neg (by decide), if_pos rfl, if_neg (Nat.not_lt.2 hlen)]⟩
    exact hfail (q := .b) h2 hd hlayout fun eph ct mac => (agreedPlaintext_b _ form eph ct mac).trans (if_neg hslot)

/-! ## The round trip on the block -/

/-- A point's result that is a success: there is a point, and its encoding fits (R217). -/
theorem pointOutcome_of_ok {c : Inputs} {encoding : Nat × Nat → Bytes} {point : Option (Nat × Nat)}
    (h : (pointOutcome c encoding point).code = .ok) :
    ∃ pt, point = some pt ∧ (encoding pt).length ≤ c.outBufSize ∧
      pointOutcome c encoding point = succeeded (encoding pt) .aux false := by
  cases point with
  | none => exact absurd h (show ResultCode.keyAgreementFailed ≠ .ok by decide)
  | some pt =>
    obtain hlong | hfits := Nat.lt_or_ge c.outBufSize (encoding pt).length
    · rw [pointOutcome, sized_of_lt _ _ hlong] at h
      exact absurd h (by decide)
    · exact ⟨pt, rfl, hfits, sized_of_le _ _ hfits⟩

/-- A success of P256_DECOMPRESS: a compressed key with a point, and room for its uncompressed encoding (R230, R217). -/
theorem p256DecompressOutcome_of_ok {c : Inputs} (h : (p256DecompressOutcome c).code = .ok) :
    ∃ pt, c.input.length = 33 ∧ (c.input.headD 0 = 0x02 ∨ c.input.headD 0 = 0x03) ∧
      P256.recover c.input = some pt ∧ (P256.uncompressPoint pt).length ≤ c.outBufSize ∧
      p256DecompressOutcome c = succeeded (P256.uncompressPoint pt) .aux false := by
  have hhead {v : Byte} (hv : c.input.head? = some v) : c.input.headD 0 = v := by
    rw [List.headD_eq_head?_getD, hv, Option.getD_some]
  unfold p256DecompressOutcome at h ⊢
  split_ifs at h ⊢ with hsize hempty hform hlen
  · exact absurd h (by decide)
  · exact absurd h (by decide)
  · exact absurd h (by decide)
  · obtain ⟨pt, hpt, hfits, houtcome⟩ := pointOutcome_of_ok h
    exact ⟨pt, not_not.1 hlen, hform.imp hhead hhead, hpt, hfits, houtcome⟩
  · exact absurd h (by decide)

/-- P256_COMPRESS of an uncompressed encoding that fits (R235). -/
theorem p256CompressOutcome_of_point {c : Inputs} {pt : Nat × Nat} (hlen : c.inLen ≤ c.inBufSize)
    (hinput : c.input = P256.uncompressPoint pt) (hsplit : P256.splitPoint (P256.uncompressPoint pt) = some pt)
    (hfits : (P256.compressPoint pt).length ≤ c.outBufSize) :
    p256CompressOutcome c = succeeded (P256.compressPoint pt) .aux false := by
  have hlen65 : (P256.uncompressPoint pt).length = 65 := by simp [P256.uncompressPoint]
  have hhead : (P256.uncompressPoint pt).head? = some 0x04 := rfl
  rw [p256CompressOutcome, if_neg (Nat.not_lt.2 hlen), hinput, hlen65, if_neg (by decide), hhead, if_pos rfl,
    if_neg (by decide), hsplit]
  exact sized_of_le _ _ hfits

/-- What P256_DECOMPRESS has done where it ended in OK (R220, R230). -/
theorem exec_p256Decompress_of_ok {s t : State} (hs : s.ready) (h : exec .p256Decompress s = .next t)
    (hok : t.status.result = .ok) :
    ∃ pt, s.input.length = 33 ∧ (s.input.headD 0 = 0x02 ∨ s.input.headD 0 = 0x03) ∧
      P256.recover s.input = some pt ∧ (P256.uncompressPoint pt).length ≤ s.params.outBufSize ∧
      t.output = P256.uncompressPoint pt := by
  obtain ⟨hwf, hb⟩ := hs
  obtain rfl := Host.Outcome.next.inj ((execRefinesPureOutcome .p256Decompress s hb).symm.trans h)
  obtain ⟨pt, hlen, hform, hpt, hfits, houtcome⟩ := p256DecompressOutcome_of_ok (c := s.inputs) hok
  refine ⟨pt, hlen, hform, hpt, hfits, ?_⟩
  show (s.complete (p256DecompressOutcome s.inputs)).output = P256.uncompressPoint pt
  rw [houtcome]
  exact (completed_succeeded hwf hfits .aux false).output

/-- Settles O60: the uncompressed result splits into the recovered point, which recompresses to its key. -/
theorem decompressThenCompressRoundTrip : Obligations.DecompressThenCompressRoundTrip := by
  intro s t s2 hs _ hexec hok hs2 hparams hlen2 hcopy
  obtain ⟨pt, hlen, hform, hpt, hfits, hout⟩ := exec_p256Decompress_of_ok hs hexec hok
  have hkey := P256.compressPoint_of_recover hlen hform hpt
  have hroom : (P256.compressPoint pt).length ≤ s2.params.outBufSize := by
    rw [hparams]
    refine le_trans ?_ hfits
    simp [P256.compressPoint, P256.uncompressPoint]
  have houtcome := p256CompressOutcome_of_point (c := s2.inputs) hlen2 (hcopy.trans hout)
    (P256.splitPoint_of_recover hlen hform hpt) hroom
  rw [← hkey]
  obtain ⟨hwf2, -⟩ := id hs2
  exact exec_completed hs2 nofun houtcome (completed_succeeded hwf2 hroom _ _)

end Sys2Proof.Machine
end

section
/-! The KDF's key split (R190 to R193): slices that meet join to one slice, and the bounds of the three keys meet. -/

namespace Sys2Proof.Machine

/-- Two slices that meet at `j` have no gap and no overlap (R11). -/
theorem slice_append_slice (b : Bytes) {i j k : Nat} (hij : i ≤ j) (hjk : j ≤ k) :
    slice b i j ++ slice b j k = slice b i k := by
  have hlen : k - i = (j - i) + (k - j) := by omega
  have hdrop : (b.drop i).drop (j - i) = b.drop j := by rw [List.drop_drop, Nat.add_sub_cancel' hij]
  rw [slice, slice, slice, hlen, List.take_add, hdrop]

theorem slice_zero_length (b : Bytes) : slice b 0 b.length = b := List.take_length

/-- R191: two digests of 32 bytes. -/
theorem derivedBuffer_length (z key : Bytes) : (derivedBuffer z key).length = 64 := by
  rw [derivedBuffer, List.length_append, digest_length, digest_length]

theorem splitKeys_encKey (c : Scratch) : (splitKeys c).encKey = slice c.derived 0 16 := rfl

theorem splitKeys_icb (c : Scratch) : (splitKeys c).icb = slice c.derived 16 32 := rfl

/-- The last 32 bytes of a 64-byte buffer begin where the counter block ends (R193). -/
theorem splitKeys_macKey {c : Scratch} (h : c.derived.length = 64) :
    (splitKeys c).macKey = slice c.derived 32 64 := by
  show slice c.derived (c.derived.length - 32) c.derived.length = _
  rw [h]

/-- The three keys of a 64-byte buffer make up the buffer (R192, R193). -/
theorem splitKeys_append {c : Scratch} (h : c.derived.length = 64) :
    (splitKeys c).encKey ++ (splitKeys c).icb ++ (splitKeys c).macKey = c.derived := by
  rw [splitKeys_encKey, splitKeys_icb, splitKeys_macKey h]
  calc slice c.derived 0 16 ++ slice c.derived 16 32 ++ slice c.derived 32 64
      = slice c.derived 0 32 ++ slice c.derived 32 64 := by
        rw [slice_append_slice _ (by decide) (by decide)]
    _ = slice c.derived 0 64 := slice_append_slice _ (by decide) (by decide)
    _ = c.derived := by rw [← h, slice_zero_length]

/-- Settles O57: the derived buffer has 64 bytes, and the bounds of the three keys meet from 0 to 64. -/
theorem derivedKeysPartitionTheBuffer : Obligations.DerivedKeysPartitionTheBuffer := by
  refine ⟨kdfRounds_eq, fun c z key hc => ?_⟩
  have hlen : c.derived.length = 64 := by rw [hc, derivedBuffer_length]
  refine ⟨(splitKeys_append hlen).trans hc, ?encKey, ?icb, ?macKey⟩
  case encKey => rw [splitKeys_encKey, slice_length, hlen]; rfl
  case icb => rw [splitKeys_icb, slice_length, hlen]; rfl
  case macKey => rw [splitKeys_macKey hlen, slice_length, hlen]; rfl

end Sys2Proof.Machine
end

section
/-! MAC-then-decrypt (R201, R203): DECRYPT is entered only from MAC with an equal MAC, a plaintext is obtained only in
DECRYPT, and what has compared equal is not touched until the completion clears it. -/

namespace Sys2Proof.Machine

/-- Settles O56: the OR of the eight differences is 0 exactly when each of them is. -/
theorem macComparisonIsExact : Obligations.MacComparisonIsExact :=
  fun _ _ hexpected hmac => macDiff_eq_zero_iff hexpected hmac

/-! ## What a state with or without a plaintext owes -/

/-- Nothing is owed where no plaintext is held and none is being made. -/
theorem macVerified_of_plaintext_nil {s : State} (hnil : s.scratch.plaintext = [])
    (hst : s.stage ≠ .decrypt ∧ s.stage ≠ .decode) : s.MacVerified := by
  obtain ⟨hdecrypt, hdecode⟩ := hst
  exact ⟨fun h => absurd hnil h, fun h => by simp [hnil, hdecrypt, hdecode] at h⟩

theorem State.MacVerified.plaintext_nil {s : State} (hs : s.MacVerified)
    (hst : ¬ (s.stage = .decode ∨ s.stage = .assemble ∨ s.stage = .commit)) : s.scratch.plaintext = [] := by
  obtain ⟨hholds, -⟩ := hs
  exact Classical.byContradiction fun h => hst (hholds h)

/-- ASSEMBLE and COMMIT may hold the plaintext of the stage before with its two MACs. -/
theorem State.MacVerified.of_same_macs {s t : State} (hs : s.MacVerified)
    (hst : t.stage = .assemble ∨ t.stage = .commit) (hplain : t.scratch.plaintext = s.scratch.plaintext)
    (hexpected : t.scratch.expectedMac = s.scratch.expectedMac) (hmac : t.scratch.mac = s.scratch.mac) :
    t.MacVerified := by
  obtain ⟨-, hequal⟩ := hs
  refine ⟨fun _ => .inr hst, fun h => ?_⟩
  rw [hexpected, hmac]
  rw [hplain] at h
  obtain hdecrypt | hdecode | hholds := h
  · simp [hdecrypt] at hst
  · simp [hdecode] at hst
  · exact hequal (.inr (.inr hholds))

/-! ## The stages -/

/-- Outside MAC, DECRYPT and COMMIT a move hands on the plaintext as it was and enters neither DECRYPT nor DECODE. -/
theorem sequencerMove_plaintext {s s' : State} (h : sequencerMove s = .next s')
    (hne : s.stage ≠ .mac ∧ s.stage ≠ .decrypt ∧ s.stage ≠ .commit) :
    s'.scratch.plaintext = s.scratch.plaintext ∧ s'.stage ≠ .decrypt ∧ s'.stage ≠ .decode := by
  obtain ⟨hmac, hdecrypt, hcommit⟩ := hne
  cases hst : s.stage <;> simp only [sequencerMove, hst, Host.Outcome.next.injEq] at h
  case idle => simp [← h, hst]
  case check =>
    obtain ⟨o, r, -, rfl⟩ | ⟨i, -, -, -, rfl⟩ | ⟨i, -, -, -, rfl⟩ := stageCheck_cases h
    · simp
    · simp
    · cases i <;> simp [stageAfterCheck]
  case parse =>
    subst h
    obtain ⟨-, -, e⟩ | ⟨-, -, e⟩ | ⟨-, -, e⟩ | ⟨-, -, e⟩ | e := stageParse_cases s <;> simp [e, passthrough]
  case dispatch =>
    subst h
    obtain ⟨-, e⟩ | e | e | e | ⟨-, e⟩ := stageDispatch_cases s <;>
      simp [e, passthrough, nullScheme, chooseProfile, bindFields]
  case hexdec =>
    subst h
    obtain ⟨-, e⟩ | ⟨d, -, e⟩ := stageHexdec_cases s <;> simp [e]
  case keylen => obtain ⟨e, -, rfl⟩ | ⟨n, form, -, -, rfl⟩ := stageKeylen_cases h <;> simp
  case split => simp [← h, stageSplit, splitDecoded]
  case keyagree =>
    obtain ⟨-, hb⟩ | ⟨r, -, rfl⟩ | ⟨-, rfl⟩ | ⟨z, -, rfl⟩ := stageKeyagree_cases h
    · obtain ⟨e, -, rfl⟩ | ⟨-, -, rfl⟩ | ⟨form, pt, -, -, -, -, rfl⟩ := beginAgreement_cases hb <;> simp [hst]
    all_goals simp [hst]
  case kdf =>
    obtain ⟨-, -, rfl⟩ | ⟨-, -, rfl⟩ | ⟨r, -, rfl⟩ | ⟨z, -, rfl⟩ := stageKdf_cases h <;> simp [hst, splitKeys]
  case mac => exact absurd hst hmac
  case decrypt => exact absurd hst hdecrypt
  case decode => simp [← h, stageDecode]
  case assemble =>
    subst h
    unfold stageAssemble
    obtain ⟨-, e⟩ | ⟨-, e⟩ := emitChecked_cases _ _ <;> rw [e] <;> simp
  case commit => exact absurd hst hcommit
  case aux => obtain ⟨e, -, rfl⟩ | ⟨-, rfl⟩ | ⟨out, -, rfl⟩ := stageAux_cases h <;> simp

/-- MAC goes on to DECRYPT only with an equal MAC (R201). -/
theorem stageMac_macVerified {s s' : State} (hs : s.MacVerified) (hst : s.stage = .mac) (h : stageMac s = .next s') :
    s'.MacVerified := by
  have hnil := hs.plaintext_nil (by simp [hst])
  obtain ⟨-, rfl⟩ | ⟨r, -, rfl⟩ | ⟨tag, -, -, rfl⟩ | ⟨tag, -, hequal, rfl⟩ := stageMac_cases h
  · exact hs
  · exact hs
  · exact macVerified_of_plaintext_nil hnil (by simp)
  · exact ⟨fun hholds => absurd hnil hholds, fun _ => hequal⟩

/-- DECRYPT leaves both MACs as they were, which have compared equal before its request (R202, R203). -/
theorem stageDecrypt_macVerified {s s' : State} (hs : s.MacVerified) (hst : s.stage = .decrypt)
    (h : stageDecrypt s = .next s') : s'.MacVerified := by
  obtain ⟨-, hequal⟩ := id hs
  obtain ⟨-, rfl⟩ | ⟨r, -, rfl⟩ | ⟨z, -, rfl⟩ := stageDecrypt_cases h
  · exact hs
  · exact hs
  · exact ⟨fun _ => .inl rfl, fun _ => hequal (.inl hst)⟩

theorem stageDecode_macVerified {s : State} (hs : s.MacVerified) : (stageDecode s).MacVerified :=
  hs.of_same_macs (.inl rfl) rfl rfl rfl

theorem stageAssemble_macVerified {s : State} (hs : s.MacVerified) : (stageAssemble s).MacVerified := by
  unfold stageAssemble
  obtain ⟨-, e⟩ | ⟨-, e⟩ := emitChecked_cases _ _ <;> rw [e] <;> exact hs.of_same_macs (.inr rfl) rfl rfl rfl

/-- The completion clears the plaintext (R221). -/
theorem stageCommit_macVerified (s : State) : (stageCommit s).MacVerified := by
  unfold stageCommit
  split <;> exact macVerified_of_plaintext_nil rfl (by simp)

theorem sequencerMove_macVerified {s s' : State} (hs : s.MacVerified) (h : sequencerMove s = .next s') :
    s'.MacVerified := by
  cases hst : s.stage
  case mac => exact stageMac_macVerified hs hst (by simpa [sequencerMove, hst] using h)
  case decrypt => exact stageDecrypt_macVerified hs hst (by simpa [sequencerMove, hst] using h)
  case decode =>
    simp only [sequencerMove, hst, Host.Outcome.next.injEq] at h
    exact h ▸ stageDecode_macVerified hs
  case assemble =>
    simp only [sequencerMove, hst, Host.Outcome.next.injEq] at h
    exact h ▸ stageAssemble_macVerified hs
  case commit =>
    simp only [sequencerMove, hst, Host.Outcome.next.injEq] at h
    exact h ▸ stageCommit_macVerified s
  case idle | check | parse | dispatch | hexdec | keylen | split | keyagree | kdf | aux =>
    obtain ⟨hplain, hstage⟩ := sequencerMove_plaintext h (by simp [hst])
    exact macVerified_of_plaintext_nil (hplain.trans (hs.plaintext_nil (by simp [hst]))) hstage

/-! ## The step -/

theorem step_macVerified {s s' : State} (hs : s.MacVerified) (h : step s = .next s') : s'.MacVerified := by
  refine step_keeps (P := State.MacVerified) (hag := fun _ _ h => h) (hresp := fun _ _ h => h)
    (hmove := fun _ _ => sequencerMove_macVerified) (heng := fun _ _ h _ => h) (hover := fun _ h => h)
    (hstat := fun _ _ h => h) (hctrl := fun _ _ h _ => h) (hacc := ?accept) (hinl := fun _ _ h _ => h)
    (hkc := fun _ _ h _ => h) (hka := fun _ _ _ h _ => h) (hkb := fun _ _ _ h _ => h)
    (hib := fun _ _ _ h _ _ _ => h) (hlate := fun _ h => h) (hres := ?reset) hs h
  case accept => exact fun _ _ _ _ => macVerified_of_plaintext_nil rfl (by simp)
  case reset => exact fun _ _ => macVerified_of_plaintext_nil rfl ⟨nofun, nofun⟩

/-- Settles O44: a consistent sequencer has an AES128_CTR request only in DECRYPT, where the MAC has compared equal. -/
theorem macIsVerifiedBeforeDecryption : Obligations.MacIsVerifiedBeforeDecryption := by
  intro s s' hseq hs h
  have hs' : s'.MacVerified := step_macVerified hs h
  refine ⟨hs', fun k icb c hp => ?_⟩
  obtain ⟨-, hport, -⟩ := sequencerInvariantIsKept s s' hseq h
  rw [hp] at hport
  have hdecrypt : s'.stage = .decrypt := hport
  obtain ⟨-, hequal⟩ := hs'
  exact hequal (.inl hdecrypt)

end Sys2Proof.Machine
end

section
/-! The end of a command as its outcome limits it (R217, R220 to R222): a failure leaves no output, and DECONCEAL's
result is never longer than its input. -/

namespace Sys2Proof.Machine

/-! ## A failure -/

/-- A command that fails is not ZEROIZE, and its completion shows a failure and nothing else (R220, R222, R245). -/
theorem completed_failed_of_exec {i : Instr} {s t : State} (hs : s.ready) (h : exec i s = .next t)
    (hfail : t.status.result ≠ .ok) : Completed s t (failed t.status.result t.status.kind) := by
  obtain ⟨-, hb⟩ := hs
  obtain rfl : s.afterCommand i = t := Host.Outcome.next.inj ((execRefinesPureOutcome i s hb).symm.trans h)
  by_cases hi : i = .zeroize
  · subst hi
    exact absurd rfl hfail
  · rw [State.afterCommand, if_neg hi] at hfail ⊢
    have hcode : (commandOutcome s.inputs i).code ≠ .ok := hfail
    rw [complete_of_failure s hcode]
    exact completed_failed s hcode _

/-- Settles O23: the completion of a failed command has an empty result string, and every byte of OUT_BUF is beyond
its OUT_LEN. -/
theorem failureLeavesNoOutput : Obligations.FailureLeavesNoOutput := by
  intro i s t hs h hfail
  obtain ⟨hstatus, hlen, -, hmem, ⟨hstage, hcmd, hport, hscratch⟩, hctrl, hinLen, hA, hB,
    ⟨hparams, hdraw, horphans, hagenda⟩, -⟩ := completed_failed_of_exec hs h hfail
  have houtLen : t.outLen = 0 := BitVec.eq_of_toNat_eq hlen
  have hbyte (a : Nat) : t.byteAt a = s.byteAt a :=
    hmem a fun ⟨hlo, hhi⟩ => absurd hlo (Nat.not_le.2 hhi)
  exact ⟨houtLen, by rw [hstatus]; rfl, fun w => readRegister_outBuf_of_outLen_zero houtLen (4 * w), by rw [hstatus],
    by rw [hstatus], hstage, hcmd, hport, hscratch, hparams, hdraw, horphans, hagenda, hctrl, hinLen, hA, hB, hbyte⟩

/-! ## The length of a profile's plaintext -/

/-- A plaintext whose hex text has at most `n` characters, or a failure other than that of R217. -/
def HexFits (n : Nat) : Except ResultCode Bytes → Prop
  | .error e => e ≠ .lengthError
  | .ok plain => 2 * plain.length ≤ n

theorem hexFits_error {n : Nat} {e : ResultCode} (he : e ≠ .lengthError) : HexFits n (.error e) := he

/-- KEYLEN has no LengthError (R153, R154). -/
theorem keyLayout_error_ne_lengthError {q : Profile} {d : Bytes} {e : ResultCode} (h : keyLayout q d = .error e) :
    e ≠ .lengthError := by
  rintro rfl
  cases q with
  | a =>
    rw [keyLayout_a] at h
    split at h <;> simp at h
  | b =>
    cases d with
    | nil => simp [keyLayout_b_nil] at h
    | cons b d =>
      rw [keyLayout_b_cons] at h
      split_ifs at h <;> simp at h

/-- An engine's answer leads to a plaintext as long as the ciphertext, or to a failure of R180 or R202. -/
theorem answerPlaintext_hexFits (key ciphertext mac : Bytes) (a : Answer) :
    HexFits (2 * ciphertext.length) (answerPlaintext key ciphertext mac a) := by
  cases a with
  | fail => exact hexFits_error nofun
  | ok z =>
    rw [answerPlaintext, openCiphertext_eq]
    split
    · exact (congrArg (2 * ·) (ctr_length _ _ _)).le
    · exact hexFits_error nofun

/-- Key agreement and decryption, with a form of key that KEYLEN gives (R170 to R202). -/
theorem agreedPlaintext_hexFits (c : Inputs) {q : Profile} {form : Option KeyForm} (hform : q = .b → form ≠ none)
    (eph ciphertext mac : Bytes) :
    HexFits (2 * ciphertext.length) (agreedPlaintext c q form eph ciphertext mac) := by
  cases q with
  | a =>
    rw [agreedPlaintext_a]
    split
    · exact answerPlaintext_hexFits _ _ _ _
    · exact hexFits_error nofun
  | b =>
    obtain ⟨form, rfl⟩ := Option.ne_none_iff_exists'.1 (hform rfl)
    rw [agreedPlaintext_b]
    split
    · split
      · exact hexFits_error nofun
      · exact answerPlaintext_hexFits _ _ _ _
    · exact hexFits_error nofun

/-- The ciphertext is a part of the decoded scheme output, which has half as many bytes as that has characters. -/
theorem profilePlaintext_hexFits (c : Inputs) (q : Profile) (t : Bytes) :
    HexFits t.length (profilePlaintext c q t) := by
  cases hd : hexDecode t with
  | none =>
    rw [profilePlaintext_of_not_hex c q hd]
    exact hexFits_error nofun
  | some d =>
    obtain ⟨e, -, hlayout⟩ | ⟨n, form, -, hform, hlayout⟩ := keyLayout_cases q d
    · rw [profilePlaintext_of_layout_error c hd hlayout]
      exact hexFits_error (keyLayout_error_ne_lengthError hlayout)
    · have hfits := agreedPlaintext_hexFits c hform (slice d 0 n) (slice d n (d.length - 8))
        (slice d (d.length - 8) d.length)
      rw [← profilePlaintext_of_layout c hd hlayout] at hfits
      cases hp : profilePlaintext c q t with
      | error e => rwa [hp] at hfits
      | ok plain =>
        rw [hp, HexFits, slice_length] at hfits
        have hhex := hexDecode_length hd
        simp only [HexFits]
        omega

/-! ## The length of DECONCEAL's result -/

/-- An outcome whose result string has at most `n` bytes, and that is not the failure of R217. -/
def Pending.Within (q : Pending) (n : Nat) : Prop := q.out.length ≤ n ∧ q.code ≠ .lengthError

theorem failed_within {e : ResultCode} (he : e ≠ .lengthError) (k : Kind) (n : Nat) : (failed e k).Within n :=
  ⟨Nat.zero_le n, he⟩

theorem succeeded_within {out : Bytes} {n : Nat} (h : out.length ≤ n) (k : Kind) (raw : Bool) :
    (succeeded out k raw).Within n :=
  ⟨h, nofun⟩

/-- ASSEMBLE on a digit string no longer than the scheme output (R215 to R217). -/
theorem assembleOutcome_within {s : State} {u : Suci} {digits : Bytes} (hs : s.ready) (hu : s.holdsSuci u)
    (hd : digits.length ≤ u.schemeOutput.length) (k : Kind) :
    (assembleOutcome s.inputs u k digits).Within s.inLen.toNat := by
  have hsized : assembleOutcome s.inputs u k digits =
      succeeded (assembled u.supiType u.mcc u.mnc digits) k (!isImsi u.supiType) :=
    sized_of_le _ _ (assembled_fits hs hu hd)
  rw [hsized]
  exact succeeded_within (assembled_length_le hu hd) _ _

/-- A plaintext's digits are at most as many as its hex text's characters (R210, R211). -/
theorem plainOutcome_within {s : State} {u : Suci} {p : Except ResultCode Bytes} (hs : s.ready) (hu : s.holdsSuci u)
    (hp : HexFits u.schemeOutput.length p) (k : Kind) :
    (plainOutcome s.inputs u k p).Within s.inLen.toNat := by
  cases p with
  | error e => exact failed_within hp k _
  | ok plain => exact assembleOutcome_within hs hu ((decodeDigits_length_le _ _).trans hp) k

/-- The outcome by the protection scheme (R136 to R138). -/
theorem suciOutcome_within {s : State} {u : Suci} (hs : s.ready) (hu : s.holdsSuci u) :
    (suciOutcome s.inputs u).Within s.inLen.toNat := by
  have hprofile {q : Profile} (h : u.protectionScheme = profileScheme q) :
      (suciOutcome s.inputs u).Within s.inLen.toNat := by
    rw [suciOutcome_of_profile _ h]
    exact plainOutcome_within hs hu (profilePlaintext_hexFits _ q _) _
  have hnull := assembleOutcome_within hs hu le_rfl .null
  by_cases h0 : u.protectionScheme = ascii "0"
  · rwa [suciOutcome_of_null _ h0]
  by_cases h1 : u.protectionScheme = ascii "1"
  · exact hprofile (q := .a) h1
  by_cases h2 : u.protectionScheme = ascii "2"
  · exact hprofile (q := .b) h2
  rw [suciOutcome_of_unrecognised _ h0 h1 h2]
  split
  · exact hnull
  · exact failed_within (by decide) _ _

/-- A passthrough is as long as its input, a SUCI's result at most that long (R131 to R138, R217). -/
theorem deconcealOutcome_within {s : State} (hs : s.ready) (hlen : s.inLen.toNat ≤ s.params.inBufSize) :
    (deconcealOutcome s.inputs).Within s.inLen.toNat := by
  rw [deconcealOutcome_of_le hlen]
  split_ifs with hpass hsuci hfew
  · exact succeeded_within (input_length s).le _ _
  · exact failed_within (by decide) _ _
  · exact suciOutcome_within hs ⟨hlen, hsuci, Nat.not_lt.1 hfew, rfl⟩
  · exact failed_within (by decide) _ _

/-- OUT_LEN is at most the length of the outcome's result string (R220). -/
theorem complete_outLen_le (s : State) (q : Pending) : (s.complete q).outLen.toNat ≤ q.out.length := by
  rw [State.complete_outLen]
  split
  · exact Nat.mod_le _ _
  · exact Nat.zero_le _

/-- Settles O24: DECONCEAL completes with its pure outcome, which is within its input. -/
theorem deconcealNeverOutgrowsItsInput : Obligations.DeconcealNeverOutgrowsItsInput := by
  intro s hs hlen
  obtain ⟨hlength, hcode⟩ := deconcealOutcome_within hs hlen
  obtain ⟨-, hb⟩ := hs
  exact ⟨_, execRefinesPureOutcome .deconceal s hb, (complete_outLen_le s _).trans hlength, hcode⟩

end Sys2Proof.Machine
end

section
/-! The auxiliary commands as the host sees them (R230 to R250): ILLEGAL, ZEROIZE, TBCD_DECODE and the two point
conversions, each ending in its pure outcome. -/

namespace Sys2Proof.Machine

/-! ## ILLEGAL -/

/-- Settles O10: such a word's fields make a well-formed ILLEGAL command, whose outcome is one failure. -/
theorem illegalCommandCompletes : Obligations.IllegalCommandCompletes := by
  refine ⟨fun v hv => decodeWord_of_illegal ?_, fun opcode rsvd s hs => ?_⟩
  · rw [wellFormed_illegal_iff]
    exact hv.imp_right not_legalOpcode
  · exact exec_completed hs nofun rfl (completed_failed s (by decide) .none)

/-! ## ZEROIZE -/

/-- ZEROIZE's empty result stores nothing, so the bytes it leaves are those of the cleared storage (R245). -/
theorem afterCommand_zeroize_byteAt (s : State) (a : Nat) :
    (s.afterCommand .zeroize).byteAt a = s.clearStorage.byteAt a := by
  refine (complete_byteAt_ok s.clearStorage (q := succeeded [] .aux false) rfl a).trans (if_neg ?_)
  rintro ⟨hlo, hhi⟩
  exact absurd hhi (Nat.not_lt.2 hlo)

theorem afterCommand_zeroize_byteAt_of_bufferOffset {s : State} {a : Nat} (ha : bufferOffset s.params a) :
    (s.afterCommand .zeroize).byteAt a = 0 :=
  (afterCommand_zeroize_byteAt s a).trans ((clearStorage_byteAt s a).trans (if_pos ha))

theorem afterCommand_zeroize_byteAt_of_not_bufferOffset {s : State} {a : Nat} (ha : ¬ bufferOffset s.params a) :
    (s.afterCommand .zeroize).byteAt a = s.byteAt a :=
  (afterCommand_zeroize_byteAt s a).trans ((clearStorage_byteAt s a).trans (if_neg ha))

/-- Settles O11: the storage's bytes by whether their offset is in a buffer, every other field by the completion. -/
theorem zeroizeClearsEverything : Obligations.ZeroizeClearsEverything := by
  intro s ⟨_, hb⟩
  have hin (i : Nat) (hi : i < s.params.inBufSize) : bufferOffset s.params (Config.inBufBase + i) :=
    .inl ⟨Nat.le_add_right _ i, Nat.add_lt_add_left hi _⟩
  have hout (i : Nat) (hi : i < s.params.outBufSize) : bufferOffset s.params (Config.outBufBase + i) :=
    .inr ⟨Nat.le_add_right _ i, Nat.add_lt_add_left hi _⟩
  exact ⟨_, exec_zeroize hb, rfl, rfl, rfl, rfl, rfl,
    fun i hi => afterCommand_zeroize_byteAt_of_bufferOffset (hin i hi),
    fun i hi => afterCommand_zeroize_byteAt_of_bufferOffset (hout i hi),
    fun _ => afterCommand_zeroize_byteAt_of_not_bufferOffset,
    rfl, rfl, rfl, rfl, rfl, rfl, rfl, rfl, rfl, rfl⟩

/-! ## Results under the output check -/

/-- A command whose outcome is a failure ends in it. -/
theorem exec_failed {s : State} {i : Instr} {e : ResultCode} {k : Kind} (hs : s.ready) (hi : i ≠ .zeroize)
    (he : e ≠ .ok) (h : commandOutcome s.inputs i = failed e k) :
    ∃ t, exec i s = .next t ∧ Completed s t (failed e k) :=
  exec_completed hs hi h (completed_failed s he k)

/-- A command whose outcome is a result of `n` bytes under R217's check ends in the result where OUT_BUF has room for
them, and in LengthError where it has not. -/
theorem exec_sized {s : State} {i : Instr} {out : Bytes} {n : Nat} {k : Kind} {raw : Bool} (hs : s.ready)
    (hi : i ≠ .zeroize) (hn : out.length = n) (h : commandOutcome s.inputs i = sized s.inputs out k raw) :
    ∃ t, exec i s = .next t ∧
      Completed s t (if s.params.outBufSize < n then failed .lengthError k else succeeded out k raw) := by
  subst hn
  split_ifs with hlong
  · exact exec_failed hs hi (by decide) (h.trans (sized_of_lt k raw hlong))
  · have hfits : out.length ≤ s.params.outBufSize := Nat.not_lt.1 hlong
    obtain ⟨hwf, -⟩ := id hs
    exact exec_completed hs hi (h.trans (sized_of_le k raw hfits)) (completed_succeeded hwf hfits k raw)

/-- Where the outcome and the stated result test the same condition, each branch is left to itself. -/
theorem exec_ite {s : State} {i : Instr} {c : Prop} [Decidable c] {p q p' q' : Pending}
    (h : commandOutcome s.inputs i = if c then p else q)
    (hthen : commandOutcome s.inputs i = p → ∃ t, exec i s = .next t ∧ Completed s t p')
    (helse : commandOutcome s.inputs i = q → ∃ t, exec i s = .next t ∧ Completed s t q') :
    ∃ t, exec i s = .next t ∧ Completed s t (if c then p' else q') := by
  by_cases hc : c
  · rw [if_pos hc] at h ⊢
    exact hthen h
  · rw [if_neg hc] at h ⊢
    exact helse h

/-! ## TBCD_DECODE -/

/-- At most one character is stripped (R210). -/
theorem length_le_stripFiller_length (h : Bytes) : h.length ≤ (stripFiller h).length + 1 := by
  unfold stripFiller
  split
  · rw [List.length_dropLast]
    omega
  · exact Nat.le_succ _

theorem two_mul_length_le_tbcdDigits_length (b : Bytes) : 2 * b.length ≤ (tbcdDigits b).length + 1 := by
  have hstrip := length_le_stripFiller_length (hexLower (swapNibbles b))
  rwa [hexLower_length, swapNibbles_length] at hstrip

/-- TBCD_DECODE's outcome where CHECK admits its input (R240). -/
theorem commandOutcome_tbcdDecode_of_le {s : State} (hlen : s.inLen.toNat ≤ s.params.inBufSize) :
    commandOutcome s.inputs .tbcdDecode = sized s.inputs (tbcdDigits s.input) .aux false :=
  if_neg (Nat.not_lt.2 hlen)

/-- Settles O12: the digits are two for each byte of IN, or one fewer, so they outgrow 1024 bytes from 513 on. -/
theorem tbcdDecodeResult : Obligations.TbcdDecodeResult := by
  intro s hs hlen h digits
  have hmost : digits.length ≤ 2 * s.input.length := tbcdDigits_length_le s.input
  have hleast : 2 * s.input.length ≤ digits.length + 1 := two_mul_length_le_tbcdDigits_length s.input
  rw [input_length] at hmost hleast
  exact ⟨exec_sized hs nofun rfl (commandOutcome_tbcdDecode_of_le hlen), fun _ => by omega⟩

/-! ## The point conversions -/

/-- The first byte of an input that has one. -/
theorem head?_eq_some_iff_headD {b : Bytes} (hb : b.length ≠ 0) (v : Byte) : b.head? = some v ↔ b.headD 0 = v := by
  cases b with
  | nil => exact absurd rfl hb
  | cons x rest => exact Option.some_inj

theorem uncompressPoint_length (pt : Nat × Nat) : (P256.uncompressPoint pt).length = 65 := by
  simp [P256.uncompressPoint]

theorem compressPoint_length (pt : Nat × Nat) : (P256.compressPoint pt).length = 33 := by
  simp [P256.compressPoint]

/-- P256_DECOMPRESS's outcome where CHECK admits its input (R230). -/
theorem commandOutcome_p256Decompress_of_le {s : State} (hlen : s.inLen.toNat ≤ s.params.inBufSize) :
    commandOutcome s.inputs .p256Decompress =
      if s.input.length = 0 then failed .lengthError .aux
      else if s.input.headD 0 ≠ 0x02 ∧ s.input.headD 0 ≠ 0x03 then failed .invalidPublicKeyEncoding .aux
      else if s.input.length ≠ 33 then failed .lengthError .aux
      else pointOutcome s.inputs P256.uncompressPoint (P256.recover s.input) := by
  refine (if_neg (Nat.not_lt.2 hlen)).trans (ite_congr rfl (fun _ => rfl) fun hne => ?_)
  simp only [show s.inputs.input = s.input from rfl, head?_eq_some_iff_headD hne, not_or, ne_eq]

/-- P256_COMPRESS's outcome where CHECK admits its input (R235). -/
theorem commandOutcome_p256Compress_of_le {s : State} (hlen : s.inLen.toNat ≤ s.params.inBufSize) :
    commandOutcome s.inputs .p256Compress =
      if s.input.length = 0 then failed .lengthError .aux
      else if s.input.headD 0 = 0x04 then
        if s.input.length ≠ 65 then failed .lengthError .aux
        else pointOutcome s.inputs P256.compressPoint (P256.splitPoint s.input)
      else if s.input.headD 0 = 0x02 ∨ s.input.headD 0 = 0x03 then
        if s.input.length ≠ 33 then failed .lengthError .aux
        else pointOutcome s.inputs P256.compressPoint (P256.recover s.input)
      else failed .invalidPublicKeyEncoding .aux := by
  refine (if_neg (Nat.not_lt.2 hlen)).trans (ite_congr rfl (fun _ => rfl) fun hne => ?_)
  simp only [show s.inputs.input = s.input from rfl, head?_eq_some_iff_headD hne]

/-- Settles O13: the checks are those of the pure outcome, and the uncompressed point has 65 bytes. -/
theorem p256DecompressResult : Obligations.P256DecompressResult := by
  intro s hs hlen
  have hfail {e : ResultCode} (he : e ≠ .ok) :=
    exec_failed (s := s) (i := .p256Decompress) (k := .aux) hs nofun he
  refine exec_ite (commandOutcome_p256Decompress_of_le hlen) (hfail nofun) fun h =>
    exec_ite h (hfail nofun) fun h => exec_ite h (hfail nofun) fun h => ?_
  generalize P256.recover s.input = point at h ⊢
  cases point with
  | none => exact hfail nofun h
  | some pt => exact exec_sized hs nofun (uncompressPoint_length pt) h

/-- Settles O14: the checks are those of the pure outcome, whose point is the split or the recovered one, and the
compressed point has 33 bytes. -/
theorem p256CompressResult : Obligations.P256CompressResult := by
  intro s hs hlen emitted
  have hfail {e : ResultCode} (he : e ≠ .ok) :=
    exec_failed (s := s) (i := .p256Compress) (k := .aux) hs nofun he
  have hpoint {point : Option (Nat × Nat)}
      (h : commandOutcome s.inputs .p256Compress = pointOutcome s.inputs P256.compressPoint point) :
      ∃ t, exec .p256Compress s = .next t ∧ Completed s t (emitted point) := by
    cases point with
    | none => exact hfail nofun h
    | some pt => exact exec_sized hs nofun (compressPoint_length pt) h
  exact exec_ite (commandOutcome_p256Compress_of_le hlen) (hfail nofun) fun h =>
    exec_ite h (fun h => exec_ite h (hfail nofun) hpoint) fun h =>
      exec_ite h (fun h => exec_ite h (hfail nofun) hpoint) (hfail nofun)

end Sys2Proof.Machine
end

section
/-! A busy block and a reset one: which writes R300 freezes and what they leave, and what reset makes of a command that
is running (R290, R291). -/

namespace Sys2Proof.Machine

/-! ## Writes while BUSY -/

/-- R300: the targets whose writes a running command freezes. -/
def Target.frozenWhileBusy : Target → Bool
  | .ctrl | .cmd | .inLen | .keyctl | .keyA _ | .keyB _ | .inBuf _ => true
  | .id | .version | .status | .outLen | .outBuf _ | .reserved => false

/-- The offsets of the frozen targets (R32, R300). -/
theorem targetAt_frozenWhileBusy_iff (p : Params) (off : Nat) :
    (targetAt p off).frozenWhileBusy = true ↔
      off = 0x008 ∨ off = 0x00C ∨ off = 0x014 ∨ off = 0x01C ∨ (0x040 ≤ off ∧ off < 0x080) ∨
        (0x400 ≤ off ∧ off < 0x400 + p.inBufSize) := by
  simp only [targetAt, apply_ite Target.frozenWhileBusy]
  simp only [Target.frozenWhileBusy, ite_eq_iff, Bool.false_eq_true, and_false, and_true, or_false, false_or]
  unfold Config.inBufBase
  omega

theorem targetAt_status_iff (p : Params) (off : Nat) : targetAt p off = .status ↔ off = 0x010 := by
  simp only [targetAt, ite_eq_iff, reduceCtorEq, and_false, and_true, or_false, false_or]
  omega

/-- A busy block ignores a frozen write and notes it in OVERRUN (R300). -/
theorem unlessBusy_of_busy {s : State} (e : State) (h : s.busy = true) : s.unlessBusy e = s.setOverrun := by
  simp [State.unlessBusy, h]

theorem writeRegister_of_frozen {s : State} {t : Target} (v : Word) (hb : s.busy = true)
    (ht : t.frozenWhileBusy = true) : s.writeRegister t v = s.setOverrun := by
  cases t with
  | ctrl | cmd | inLen | keyctl | keyA | keyB | inBuf => exact unlessBusy_of_busy _ hb
  | id | version | status | outLen | outBuf | reserved => exact nomatch ht

/-- Beside the frozen targets only STATUS takes a write: the others are read-only or reserved (R76). -/
theorem writeRegister_of_not_frozen (s : State) {t : Target} (v : Word) (ht : t.frozenWhileBusy ≠ true)
    (hstatus : t ≠ .status) : s.writeRegister t v = s := by
  cases t with
  | ctrl | cmd | inLen | keyctl | keyA | keyB | inBuf => exact absurd rfl ht
  | status => exact absurd rfl hstatus
  | id | version | outLen | outBuf | reserved => rfl

/-! ## Reset -/

/-- The request of an aborted command waits for its late answer (R291, log 20). -/
theorem assertReset_orphans_of_requested {s : State} {r : Request} (h : s.port = .requested r) :
    s.assertReset.orphans = s.orphans ++ [r] := by
  simp [State.assertReset, h]

/-! ## The obligations -/

/-- Settles O8: while BUSY a command is its CMD write, which R300 freezes. -/
theorem commandWhileBusyOnlySetsOverrun : Obligations.CommandWhileBusyOnlySetsOverrun :=
  fun i s hb => (exec_eq_runCommand i s).trans (runCommand_of_busy i hb)

/-- Settles O34: the offset says whether the write's target is frozen, STATUS, or one that no write changes. -/
theorem writesWhileBusyAreIgnored : Obligations.WritesWhileBusyAreIgnored := by
  intro s off v _ hb hoff h4
  by_cases hfrozen : (targetAt s.params off).frozenWhileBusy = true
  · rw [if_pos ((targetAt_frozenWhileBusy_iff _ _).1 hfrozen), busWrite_word v _ rfl hoff h4,
      writeRegister_of_frozen v hb hfrozen]
    rfl
  · rw [if_neg (mt (targetAt_frozenWhileBusy_iff _ _).2 hfrozen)]
    by_cases hstatus : off = 0x010
    · subst hstatus
      exact statusWriteClearsDoneAndOverrun s v
    · rw [if_neg hstatus, busWrite_word v _ rfl hoff h4,
        writeRegister_of_not_frozen s v hfrozen (mt (targetAt_status_iff _ _).1 hstatus)]
      rfl

/-- Settles O40: the event is `assertReset`, whose registers are those of `State.reset`, and a late answer is
`discardLate`. -/
theorem resetAbortsAndRestores : Obligations.ResetAbortsAndRestores := by
  refine ⟨fun s rest ha => ⟨(s.setAgenda rest).assertReset, step_of_agenda_cons ha, rfl, rfl, rfl, rfl, rfl, rfl, rfl,
    rfl, rfl, rfl, rfl, rfl, ?outBuf, ?orphans⟩, fun s rest ha => step_of_agenda_cons ha⟩
  case outBuf => exact fun w => readRegister_outBuf_of_outLen_zero rfl (4 * w)
  case orphans => exact fun r hp => assertReset_orphans_of_requested (s := s.setAgenda rest) hp

end Sys2Proof.Machine
end
